-- ==== Sys2Proof/Word.lean ====
section
/-! DEFINITION. The word types of the machine (00_scope.md R6, R8). -/

namespace Sys2Proof

/-- A byte of memory, a general register or a timer (R6). -/
abbrev Byte := BitVec 8

/-- The 16-bit registers `pc` and `I`, a call-stack slot, an instruction word (R6, R50). -/
abbrev Word := BitVec 16

/-- The number of a general register, 0x0 to 0xF (R11): an index, never computed with. -/
abbrev Reg := Fin 16

/-- The embedded 12-bit address `NNN` of an instruction (R52, R54). -/
abbrev Addr := BitVec 12

/-- The embedded 4-bit immediate `N` of an instruction (R52, R54). -/
abbrev Nibble := BitVec 4

/-- The number of the flag register VF (R12). -/
abbrev VF : Reg := 15

end Sys2Proof
end

