-- ==== Sys2Proof/Syntax.lean ====
section
/-! DEFINITION. The abstract syntax: one constructor per row of spec/opcode_table.json (30_encoding.md R56).
A register field is a register number, an immediate is the bits of its field (R52, R54), so every term is within the
bounds of its encoding and no operand can be out of range (log 21). -/

namespace Sys2Proof

/-- The 34 instructions of R56, in the table's order. -/
inductive Instr where
  /-- `00E0` clear the display, R123. -/
  | cls
  /-- `00EE` return, R80. -/
  | ret
  /-- `1NNN` jump, R81. -/
  | jp (nnn : Addr)
  /-- `2NNN` call, R82. -/
  | call (nnn : Addr)
  /-- `3XNN` skip if Vx = NN, R83. -/
  | seVxNn (x : Reg) (nn : Byte)
  /-- `4XNN` skip if Vx ≠ NN, R84. -/
  | sneVxNn (x : Reg) (nn : Byte)
  /-- `5XY0` skip if Vx = Vy, R85. -/
  | seVxVy (x y : Reg)
  /-- `6XNN` load immediate, R91. -/
  | ldVxNn (x : Reg) (nn : Byte)
  /-- `7XNN` add immediate, R92. -/
  | addVxNn (x : Reg) (nn : Byte)
  /-- `8XY0` register move, R93. -/
  | ldVxVy (x y : Reg)
  /-- `8XY1` bitwise or, R94. -/
  | orVxVy (x y : Reg)
  /-- `8XY2` bitwise and, R95. -/
  | andVxVy (x y : Reg)
  /-- `8XY3` bitwise exclusive or, R96. -/
  | xorVxVy (x y : Reg)
  /-- `8XY4` add with carry-out, R97. -/
  | addVxVy (x y : Reg)
  /-- `8XY5` subtract, R98. -/
  | sub (x y : Reg)
  /-- `8XY6` shift right; `y` is encoded and ignored, R99. -/
  | shr (x y : Reg)
  /-- `8XY7` reverse subtract, R100. -/
  | subn (x y : Reg)
  /-- `8XYE` shift left; `y` is encoded and ignored, R101. -/
  | shl (x y : Reg)
  /-- `9XY0` skip if Vx ≠ Vy, R86. -/
  | sneVxVy (x y : Reg)
  /-- `ANNN` load index, R110. -/
  | ldINnn (nnn : Addr)
  /-- `BNNN` jump to NNN + V0, R87. -/
  | jpV0 (nnn : Addr)
  /-- `CXNN` masked random byte, R102. -/
  | rnd (x : Reg) (nn : Byte)
  /-- `DXYN` draw sprite, R124. -/
  | drw (x y : Reg) (n : Nibble)
  /-- `EX9E` skip if key Vx pressed, R130. -/
  | skp (x : Reg)
  /-- `EXA1` skip if key Vx not pressed, R131. -/
  | sknp (x : Reg)
  /-- `FX07` read the delay timer, R133. -/
  | ldVxDt (x : Reg)
  /-- `FX0A` wait for a key, R132. -/
  | ldVxK (x : Reg)
  /-- `FX15` set the delay timer, R134. -/
  | ldDtVx (x : Reg)
  /-- `FX18` set the sound timer, R135. -/
  | ldStVx (x : Reg)
  /-- `FX1E` add register to index, R111. -/
  | addIVx (x : Reg)
  /-- `FX29` index of font glyph, R112. -/
  | ldFVx (x : Reg)
  /-- `FX33` store decimal digits, R113. -/
  | ldBVx (x : Reg)
  /-- `FX55` store registers, R114. -/
  | ldMiVx (x : Reg)
  /-- `FX65` load registers, R115. -/
  | ldVxMi (x : Reg)
  deriving DecidableEq, Repr

/-- One row of the opcode table: a word selects it when `w AND mask = pattern` (R55, R56). -/
structure OpcodeRow where
  mnemonic : String
  pattern  : Word
  mask     : Word
  deriving DecidableEq, Repr

end Sys2Proof
end

