-- ==== Sys2Proof/Decode.lean ====
section
/-! DEFINITION. Decoding (30_encoding.md R50 to R57), the encoder written from the same tables, and the opcode table of
R56 as data. -/

namespace Sys2Proof

/-! ## Fields of the instruction word (R52) -/

/-- The major opcode `w[15:12]`. -/
def opField (w : Word) : Nibble := w.extractLsb' 12 4

/-- The register index `X = w[11:8]`. -/
def xField (w : Word) : Reg := (w.extractLsb' 8 4).toFin

/-- The register index `Y = w[7:4]`. -/
def yField (w : Word) : Reg := (w.extractLsb' 4 4).toFin

/-- The low nibble `N = w[3:0]`. -/
def nField (w : Word) : Nibble := w.extractLsb' 0 4

/-- The 8-bit immediate `NN = w[7:0]`. -/
def nnField (w : Word) : Byte := w.extractLsb' 0 8

/-- The 12-bit address `NNN = w[11:0]`. -/
def nnnField (w : Word) : Addr := w.extractLsb' 0 12

/-! ## Decoding -/

/-- Why bytes decode to no instruction. -/
inductive DecodeError where
  /-- Fewer than the two bytes of an instruction (R50). -/
  | truncated
  /-- The word matches no row of the opcode table (R57). -/
  | unknownOpcode (w : Word)
  deriving DecidableEq, Repr

/-- The words of op 0: two fixed words (R56 rows 1, 2). -/
def decodeSys (w : Word) : Except DecodeError Instr :=
  if w = 0x00E0#16 then .ok .cls
  else if w = 0x00EE#16 then .ok .ret
  else .error (.unknownOpcode w)

/-- The nine instructions of op 8, selected by `N` (R56 rows 10 to 18). -/
def decodeAlu (w : Word) : Except DecodeError Instr :=
  match nField w with
  | 0x0#4 => .ok (.ldVxVy (xField w) (yField w))
  | 0x1#4 => .ok (.orVxVy (xField w) (yField w))
  | 0x2#4 => .ok (.andVxVy (xField w) (yField w))
  | 0x3#4 => .ok (.xorVxVy (xField w) (yField w))
  | 0x4#4 => .ok (.addVxVy (xField w) (yField w))
  | 0x5#4 => .ok (.sub (xField w) (yField w))
  | 0x6#4 => .ok (.shr (xField w) (yField w))
  | 0x7#4 => .ok (.subn (xField w) (yField w))
  | 0xE#4 => .ok (.shl (xField w) (yField w))
  | _ => .error (.unknownOpcode w)

/-- The two instructions of op E, selected by `NN` (R56 rows 24, 25). -/
def decodeKey (w : Word) : Except DecodeError Instr :=
  match nnField w with
  | 0x9E#8 => .ok (.skp (xField w))
  | 0xA1#8 => .ok (.sknp (xField w))
  | _ => .error (.unknownOpcode w)

/-- The nine instructions of op F, selected by `NN` (R56 rows 26 to 34). -/
def decodeMisc (w : Word) : Except DecodeError Instr :=
  match nnField w with
  | 0x07#8 => .ok (.ldVxDt (xField w))
  | 0x0A#8 => .ok (.ldVxK (xField w))
  | 0x15#8 => .ok (.ldDtVx (xField w))
  | 0x18#8 => .ok (.ldStVx (xField w))
  | 0x1E#8 => .ok (.addIVx (xField w))
  | 0x29#8 => .ok (.ldFVx (xField w))
  | 0x33#8 => .ok (.ldBVx (xField w))
  | 0x55#8 => .ok (.ldMiVx (xField w))
  | 0x65#8 => .ok (.ldVxMi (xField w))
  | _ => .error (.unknownOpcode w)

/-- Decode an instruction word: dispatch on `op`, then on the literal low digits (R52, R55, R56).
Every literal digit is compared (the spec's decision D11, log 12); the sixteen values of `op` are all listed, so the last
arm is never taken. -/
def decodeWord (w : Word) : Except DecodeError Instr :=
  match opField w with
  | 0x0#4 => decodeSys w
  | 0x1#4 => .ok (.jp (nnnField w))
  | 0x2#4 => .ok (.call (nnnField w))
  | 0x3#4 => .ok (.seVxNn (xField w) (nnField w))
  | 0x4#4 => .ok (.sneVxNn (xField w) (nnField w))
  | 0x5#4 => if nField w = 0x0#4 then .ok (.seVxVy (xField w) (yField w)) else .error (.unknownOpcode w)
  | 0x6#4 => .ok (.ldVxNn (xField w) (nnField w))
  | 0x7#4 => .ok (.addVxNn (xField w) (nnField w))
  | 0x8#4 => decodeAlu w
  | 0x9#4 => if nField w = 0x0#4 then .ok (.sneVxVy (xField w) (yField w)) else .error (.unknownOpcode w)
  | 0xA#4 => .ok (.ldINnn (nnnField w))
  | 0xB#4 => .ok (.jpV0 (nnnField w))
  | 0xC#4 => .ok (.rnd (xField w) (nnField w))
  | 0xD#4 => .ok (.drw (xField w) (yField w) (nField w))
  | 0xE#4 => decodeKey w
  | 0xF#4 => decodeMisc w
  | _ => .error (.unknownOpcode w)

/-- The instruction word assembled big-endian from the bytes at `pc` and `pc + 1` (R33, R51). -/
def wordOfBytes (hi lo : Byte) : Word := hi ++ lo

/-- Decode the first instruction of a byte sequence, and give the bytes after it (R50, R51). -/
def decode : List Byte → Except DecodeError (Instr × List Byte)
  | hi :: lo :: rest => (decodeWord (wordOfBytes hi lo)).map fun i => (i, rest)
  | _ => .error .truncated

/-! ## Encoding -/

/-- The four bits of a register field. -/
def regBits (r : Reg) : Nibble := BitVec.ofFin r

/-- Format `NNN` of R53: op, 12-bit address. -/
def formatNNN (op : Nibble) (nnn : Addr) : Word := op ++ nnn

/-- Format `XNN` of R53: op, X, 8-bit immediate. -/
def formatXNN (op : Nibble) (x : Reg) (nn : Byte) : Word := op ++ regBits x ++ nn

/-- Formats `XY` and `XYN` of R53: op, X, Y, low nibble. -/
def formatXYN (op : Nibble) (x y : Reg) (n : Nibble) : Word := op ++ regBits x ++ regBits y ++ n

/-- The word of an instruction (R56). -/
def encode : Instr → Word
  | .cls => 0x00E0#16
  | .ret => 0x00EE#16
  | .jp nnn => formatNNN 0x1#4 nnn
  | .call nnn => formatNNN 0x2#4 nnn
  | .seVxNn x nn => formatXNN 0x3#4 x nn
  | .sneVxNn x nn => formatXNN 0x4#4 x nn
  | .seVxVy x y => formatXYN 0x5#4 x y 0x0#4
  | .ldVxNn x nn => formatXNN 0x6#4 x nn
  | .addVxNn x nn => formatXNN 0x7#4 x nn
  | .ldVxVy x y => formatXYN 0x8#4 x y 0x0#4
  | .orVxVy x y => formatXYN 0x8#4 x y 0x1#4
  | .andVxVy x y => formatXYN 0x8#4 x y 0x2#4
  | .xorVxVy x y => formatXYN 0x8#4 x y 0x3#4
  | .addVxVy x y => formatXYN 0x8#4 x y 0x4#4
  | .sub x y => formatXYN 0x8#4 x y 0x5#4
  | .shr x y => formatXYN 0x8#4 x y 0x6#4
  | .subn x y => formatXYN 0x8#4 x y 0x7#4
  | .shl x y => formatXYN 0x8#4 x y 0xE#4
  | .sneVxVy x y => formatXYN 0x9#4 x y 0x0#4
  | .ldINnn nnn => formatNNN 0xA#4 nnn
  | .jpV0 nnn => formatNNN 0xB#4 nnn
  | .rnd x nn => formatXNN 0xC#4 x nn
  | .drw x y n => formatXYN 0xD#4 x y n
  | .skp x => formatXNN 0xE#4 x 0x9E#8
  | .sknp x => formatXNN 0xE#4 x 0xA1#8
  | .ldVxDt x => formatXNN 0xF#4 x 0x07#8
  | .ldVxK x => formatXNN 0xF#4 x 0x0A#8
  | .ldDtVx x => formatXNN 0xF#4 x 0x15#8
  | .ldStVx x => formatXNN 0xF#4 x 0x18#8
  | .addIVx x => formatXNN 0xF#4 x 0x1E#8
  | .ldFVx x => formatXNN 0xF#4 x 0x29#8
  | .ldBVx x => formatXNN 0xF#4 x 0x33#8
  | .ldMiVx x => formatXNN 0xF#4 x 0x55#8
  | .ldVxMi x => formatXNN 0xF#4 x 0x65#8

/-- The byte of a word that stands at the lower address (R33, R51). -/
def hiByte (w : Word) : Byte := w.extractLsb' 8 8

/-- The byte of a word that stands at the higher address (R33, R51). -/
def loByte (w : Word) : Byte := w.extractLsb' 0 8

/-- A word's two bytes as memory holds them (R33). -/
def wordBytes (w : Word) : List Byte := [hiByte w, loByte w]

/-- An instruction's two bytes as memory holds them (R33, R56). -/
def encodeBytes (i : Instr) : List Byte := wordBytes (encode i)

/-! ## The opcode table of R56 as data -/

/-- The row of R56 an instruction belongs to. -/
def Instr.row : Instr → OpcodeRow
  | .cls => ⟨"CLS", 0x00E0#16, 0xFFFF#16⟩
  | .ret => ⟨"RET", 0x00EE#16, 0xFFFF#16⟩
  | .jp _ => ⟨"JP", 0x1000#16, 0xF000#16⟩
  | .call _ => ⟨"CALL", 0x2000#16, 0xF000#16⟩
  | .seVxNn _ _ => ⟨"SE_VX_NN", 0x3000#16, 0xF000#16⟩
  | .sneVxNn _ _ => ⟨"SNE_VX_NN", 0x4000#16, 0xF000#16⟩
  | .seVxVy _ _ => ⟨"SE_VX_VY", 0x5000#16, 0xF00F#16⟩
  | .ldVxNn _ _ => ⟨"LD_VX_NN", 0x6000#16, 0xF000#16⟩
  | .addVxNn _ _ => ⟨"ADD_VX_NN", 0x7000#16, 0xF000#16⟩
  | .ldVxVy _ _ => ⟨"LD_VX_VY", 0x8000#16, 0xF00F#16⟩
  | .orVxVy _ _ => ⟨"OR", 0x8001#16, 0xF00F#16⟩
  | .andVxVy _ _ => ⟨"AND", 0x8002#16, 0xF00F#16⟩
  | .xorVxVy _ _ => ⟨"XOR", 0x8003#16, 0xF00F#16⟩
  | .addVxVy _ _ => ⟨"ADD_VX_VY", 0x8004#16, 0xF00F#16⟩
  | .sub _ _ => ⟨"SUB", 0x8005#16, 0xF00F#16⟩
  | .shr _ _ => ⟨"SHR", 0x8006#16, 0xF00F#16⟩
  | .subn _ _ => ⟨"SUBN", 0x8007#16, 0xF00F#16⟩
  | .shl _ _ => ⟨"SHL", 0x800E#16, 0xF00F#16⟩
  | .sneVxVy _ _ => ⟨"SNE_VX_VY", 0x9000#16, 0xF00F#16⟩
  | .ldINnn _ => ⟨"LD_I_NNN", 0xA000#16, 0xF000#16⟩
  | .jpV0 _ => ⟨"JP_V0", 0xB000#16, 0xF000#16⟩
  | .rnd _ _ => ⟨"RND", 0xC000#16, 0xF000#16⟩
  | .drw _ _ _ => ⟨"DRW", 0xD000#16, 0xF000#16⟩
  | .skp _ => ⟨"SKP", 0xE09E#16, 0xF0FF#16⟩
  | .sknp _ => ⟨"SKNP", 0xE0A1#16, 0xF0FF#16⟩
  | .ldVxDt _ => ⟨"LD_VX_DT", 0xF007#16, 0xF0FF#16⟩
  | .ldVxK _ => ⟨"LD_VX_K", 0xF00A#16, 0xF0FF#16⟩
  | .ldDtVx _ => ⟨"LD_DT_VX", 0xF015#16, 0xF0FF#16⟩
  | .ldStVx _ => ⟨"LD_ST_VX", 0xF018#16, 0xF0FF#16⟩
  | .addIVx _ => ⟨"ADD_I_VX", 0xF01E#16, 0xF0FF#16⟩
  | .ldFVx _ => ⟨"LD_F_VX", 0xF029#16, 0xF0FF#16⟩
  | .ldBVx _ => ⟨"LD_B_VX", 0xF033#16, 0xF0FF#16⟩
  | .ldMiVx _ => ⟨"LD_MI_VX", 0xF055#16, 0xF0FF#16⟩
  | .ldVxMi _ => ⟨"LD_VX_MI", 0xF065#16, 0xF0FF#16⟩

/-! ## The host's view of the decoder -/

/-- The word of an instruction given as the opcode table numbers its bits: bit 0 is the least significant bit of the one
word, and bits above `nbits` are 0 (R50: one word, so bits above 15 name no instruction bit). -/
def tableWord (nbits w : Nat) : Word := BitVec.ofNat 16 (w % 2 ^ nbits)

/-- The instruction the decoder reads from an instruction whose bits are `w`, numbered as the opcode table numbers them. -/
def decodeTableWord (nbits w : Nat) : Option Instr :=
  match decode (wordBytes (tableWord nbits w)) with
  | .ok (i, _) => some i
  | .error _ => none

end Sys2Proof
end

