-- ==== Sys2Proof/Config.lean ====
section
/-! DEFINITION. What is fixed for the machine (00_scope.md R6) and its one free value, the random byte (42_alu.md R103).
The two parameters of R7 (the font and the last key FX0A scans) stand in Sys2Proof/Machine/Params.lean. -/

namespace Sys2Proof

/-- `MEM_SIZE` of R6: "a fixed 4096-byte addressable space". -/
abbrev Config.memSize : Nat := 4096

/-- `FONT_SIZE` of R6: the font occupies 0x000 to 0x04F. -/
abbrev Config.fontSize : Nat := 80

/-- `PROG_BASE` of R6: the loaded program starts at 0x200. -/
abbrev Config.progBase : Nat := 0x200

/-- `PROG_MAX` of R6: `MEM_SIZE - PROG_BASE` bytes. -/
abbrev Config.progMax : Nat := 3584

/-- The free random byte (R103, R25 (a)): the byte the outside supplies at the n-th draw, "under no law".
It has no body, so nothing can be proved of a particular value; the counter is `State.draws`.
DESIGN CHOICE (log 1), safe: a claim proved holds for every sequence of draws. -/
opaque Config.rnd : Nat → Byte

end Sys2Proof
end

