-- ==== Sys2Proof/Machine/State.lean ====
section
/-! DEFINITION. The state of the core as plain data (10_state.md R10 to R26), and the state after reset
(70_reset_and_hazards.md R170, R171). -/

namespace Sys2Proof.Machine

/-- Why a step ends outside the machine with a fault: never.  R79 makes the step total: a faulting cycle is the next state
in which the `FAULT` latch is written (R76, R146), and a cycle of a halted core is the next state equal to the old one
(R77).  So there is no constructor, nobody raises one, and that is safe (log 18). -/
inductive Fault where
  deriving DecidableEq, Repr

/-- Why a step has no meaning. -/
inductive Refusal where
  /-- Raised by an arm of `exec` whose instruction has no meaning yet; safe.  No arm raises it. -/
  | notModelled (mnemonic : String)
  deriving DecidableEq, Repr

/-- The cause field of the fault latch: the six causes of R141.  The codes 6 and 7 are never produced, so they have no
constructor. -/
inductive FaultCause where
  /-- No fault recorded. -/
  | none
  /-- The fetched word matches no row of the opcode table (R142). -/
  | unknownOpcode
  /-- `2NNN` with `sp = 16` (R143). -/
  | stackOverflow
  /-- `00EE` with `sp = 0` (R144). -/
  | stackUnderflow
  /-- A fetch or a data access would touch an address above 0xFFF (R145). -/
  | addressOutOfRange
  /-- `EX9E` or `EXA1` with Vx above 0x0F (R147). -/
  | keyIndexOutOfRange
  deriving DecidableEq, Repr

/-- The fault latch `FAULT` (R23): the cause and the recorded information. -/
structure FaultLatch where
  cause : FaultCause
  info  : Word
  deriving DecidableEq, Repr

/-- The framebuffer `FB` (R20, R120): 32 rows of 64 pixels, `true` is on. -/
abbrev FrameBuffer := Vector (Vector Bool 64) 32

/-- The key flags `K` (R21): `true` is pressed. -/
abbrev Keys := Vector Bool 16

/-- Memory `MEM` (R22, R30): the bytes that differ from their reset content, by rising address.  What an unlisted address
reads as is `resetByte` (log 20). -/
abbrev Memory := List Host.Cell

/-- The complete state of the core (R10), and the model's own draw counter. -/
structure State where
  /-- The general registers V0 to VF (R11, R12). -/
  v : Vector Byte 16
  /-- The program counter (R13, R14). -/
  pc : Word
  /-- The index register `I` (R15). -/
  i : Word
  /-- The call stack, not in memory (R16). -/
  stack : Vector Word 16
  /-- The number of occupied stack slots, 0 to 16 (R17). -/
  sp : Fin 17
  /-- The delay timer (R18). -/
  dt : Byte
  /-- The sound timer (R19). -/
  st : Byte
  /-- The framebuffer (R20). -/
  fb : FrameBuffer
  /-- The key flags (R21). -/
  k : Keys
  /-- Memory (R22). -/
  mem : Memory
  /-- The fault latch (R23). -/
  fault : FaultLatch
  /-- The model's own field, not the spec's: how many random bytes have been drawn (R103; log 1). -/
  draws : Nat
  deriving DecidableEq, Repr

/-- The framebuffer with every pixel off (R122). -/
def FrameBuffer.blank : FrameBuffer := Vector.replicate 32 (Vector.replicate 64 false)

/-- All keys released (R136 `clear`). -/
def Keys.released : Keys := Vector.replicate 16 false

/-- The state after `RESET` (R170, R171).  `V` and the stack slots are zero by the spec's own decision D9 (log 7); memory
lists nothing, so it reads as its reset content (log 3, log 7, log 20); `draws` is a DESIGN CHOICE (log 2). -/
def State.reset : State where
  v := Vector.replicate 16 0x00#8
  pc := 0x0200#16
  i := 0x0000#16
  stack := Vector.replicate 16 0x0000#16
  sp := 0
  dt := 0x00#8
  st := 0x00#8
  fb := FrameBuffer.blank
  k := Keys.released
  mem := []
  fault := ⟨.none, 0x0000#16⟩
  draws := 0

end Sys2Proof.Machine
end

