-- ==== Sys2Proof/Machine/Params.lean ====
section
/-! DEFINITION. The two parameters of 00_scope.md R7 at the values the spec takes: the font and the last key FX0A scans;
and the reset content of memory (10_state.md R22, R24).  They stand here, and not in Config.lean, so that they can be
mended. -/

namespace Sys2Proof.Machine

/-- `FONT[0..79]` (R24), five bytes a glyph, top row first.  The spec gives the values from general knowledge, as the
default of a parameter (D10): PRESUMED, unsafe (log 3). -/
def font : List Byte :=
  [0xF0#8, 0x90#8, 0x90#8, 0x90#8, 0xF0#8] ++
  [0x20#8, 0x60#8, 0x20#8, 0x20#8, 0x70#8] ++
  [0xF0#8, 0x10#8, 0xF0#8, 0x80#8, 0xF0#8] ++
  [0xF0#8, 0x10#8, 0xF0#8, 0x10#8, 0xF0#8] ++
  [0x90#8, 0x90#8, 0xF0#8, 0x10#8, 0x10#8] ++
  [0xF0#8, 0x80#8, 0xF0#8, 0x10#8, 0xF0#8] ++
  [0xF0#8, 0x80#8, 0xF0#8, 0x90#8, 0xF0#8] ++
  [0xF0#8, 0x10#8, 0x20#8, 0x40#8, 0x40#8] ++
  [0xF0#8, 0x90#8, 0xF0#8, 0x90#8, 0xF0#8] ++
  [0xF0#8, 0x90#8, 0xF0#8, 0x10#8, 0xF0#8] ++
  [0xF0#8, 0x90#8, 0xF0#8, 0x90#8, 0x90#8] ++
  [0xE0#8, 0x90#8, 0xE0#8, 0x90#8, 0xE0#8] ++
  [0xF0#8, 0x80#8, 0x80#8, 0x80#8, 0xF0#8] ++
  [0xE0#8, 0x90#8, 0x90#8, 0x90#8, 0xE0#8] ++
  [0xF0#8, 0x80#8, 0xF0#8, 0x80#8, 0xF0#8] ++
  [0xF0#8, 0x80#8, 0xF0#8, 0x80#8, 0x80#8]

/-- `WAITKEY_LAST` (R7, R132): the last key `FX0A` scans.  The spec follows the source's literal 0xE (D7):
DESIGN CHOICE of the spec, unsafe (log 4). -/
def waitKeyLast : Nat := 0xE

/-- What an address reads as after reset, and so while memory lists no byte for it (R22, R31): the font in 0x000 to
0x04F, 0x00 elsewhere (0x050 to 0x1FF by the spec's decision D9, log 7). -/
def resetByte (a : Nat) : Byte := if a < Config.fontSize then font.getD a 0x00#8 else 0x00#8

end Sys2Proof.Machine
end

