-- ==== Sys2Proof/Machine/Ops.lean ====
section
/-! DEFINITION. The shared operations: registers, call stack, memory, the cycle's advance and tick, fault entry. -/

namespace Sys2Proof.Machine

/-- What a step or a meaning answers. -/
abbrev Result := Host.Outcome State Fault Refusal

/-! ## Registers (R11 to R19) -/

/-- `V[r]` (R9, R11). -/
def State.getV (s : State) (r : Reg) : Byte := s.v[r]

/-- `V[r] <- b` (R9, R11). -/
def State.setV (s : State) (r : Reg) (b : Byte) : State := { s with v := s.v.set r b }

/-- `pc <- t` (R9). -/
def State.setPc (s : State) (t : Word) : State := { s with pc := t }

/-- `I <- w` (R9, R15). -/
def State.setI (s : State) (w : Word) : State := { s with i := w }

/-- `DT <- b` (R18). -/
def State.setDt (s : State) (b : Byte) : State := { s with dt := b }

/-- `ST <- b` (R19). -/
def State.setSt (s : State) (b : Byte) : State := { s with st := b }

/-- Replace the framebuffer (R20). -/
def State.setFb (s : State) (f : FrameBuffer) : State := { s with fb := f }

/-- Replace memory (R22). -/
def State.setMem (s : State) (m : Memory) : State := { s with mem := m }

/-- The random byte of this draw is consumed (R103): the next draw takes another free value (log 1). -/
def State.nextDraw (s : State) : State := { s with draws := s.draws + 1 }

/-! ## The call stack (R16, R17) -/

/-- `stack[sp] <- a; sp <- sp + 1` (R82).  The call checks `sp < 16` first; the bounds written here are never met. -/
def State.push (s : State) (a : Word) : State :=
  { s with stack := s.stack.setIfInBounds s.sp.val a, sp := ⟨min (s.sp.val + 1) 16, by omega⟩ }

/-- `sp <- sp - 1; pc <- stack[sp]` (R80): the slot is read, not cleared.  The return checks `sp > 0` first. -/
def State.popPc (s : State) : State :=
  { s with pc := s.stack[s.sp.val - 1], sp := ⟨s.sp.val - 1, by omega⟩ }

/-! ## Memory (R30 to R41) -/

/-- The byte at an address (R36): the listed byte, or the reset content. -/
def Memory.read : Memory → Nat → Byte
  | [], a => resetByte a
  | c :: m, a => if c.1 = a then c.2 else Memory.read m a

/-- List a byte in front of cells of higher address, unless it is the reset content. -/
def Memory.put (m : Memory) (a : Nat) (b : Byte) : Memory :=
  if b = resetByte a then m else (a, b) :: m

/-- `MemWrite(a, 1, b)` (R37): the one byte changes, and the list stays canonical. -/
def Memory.write : Memory → Nat → Byte → Memory
  | [], a, b => Memory.put [] a b
  | c :: m, a, b =>
    if c.1 < a then c :: Memory.write m a b
    else if c.1 = a then Memory.put m a b
    else Memory.put (c :: m) a b

/-- The canonical form: addresses strictly rise, lie in the address space, and no cell repeats the reset content. -/
abbrev Memory.wf (m : Memory) : Prop :=
  m.Pairwise (fun c d => c.1 < d.1) ∧ ∀ c ∈ m, c.1 < Config.memSize ∧ c.2 ≠ resetByte c.1

/-- `n` bytes from an address upward (R36, R41). -/
def Memory.readBytes (m : Memory) (a : Nat) : Nat → List Byte
  | 0 => []
  | n + 1 => m.read a :: Memory.readBytes m (a + 1) n

/-- Store bytes at ascending addresses (R37, R41). -/
def Memory.storeBytes (m : Memory) (a : Nat) : List Byte → Memory
  | [] => m
  | b :: bs => Memory.storeBytes (m.write a b) (a + 1) bs

/-- `n` bytes from an address lie in memory (R38): an access of no byte always does; no address wraps
(the spec's decision D5, log 10). -/
abbrev InMemory (a n : Nat) : Prop := n = 0 ∨ a + n ≤ Config.memSize

/-! ## The cycle (R70 to R79) -/

/-- Step 2: advance the program counter (R72). -/
def State.advance (s : State) : State := s.setPc (s.pc + 2)

/-- One timer counts down, floored at zero (R75). -/
def tickByte (t : Byte) : Byte := if t = 0 then 0 else t - 1

/-- Step 5: both timers tick (R75). -/
def State.tick (s : State) : State := (s.setDt (tickByte s.dt)).setSt (tickByte s.st)

/-- A cycle that completes: advance, the instruction's own effect (written against the advanced `pc`, R72), tick. -/
def retire (s : State) (effect : State → State) : Result := .next (effect s.advance).tick

/-- Fault entry, the one shared operation (R76, R146): from the state at the start of the cycle, only the latch changes.
Nothing is saved elsewhere, no handler is entered, and there is no return (R152). -/
def raise (c : FaultCause) (info : Word) (s : State) : Result := .next { s with fault := ⟨c, info⟩ }

/-- The core is halted while the latch holds a fault (R77). -/
def State.halted (s : State) : Bool := s.fault.cause != .none

/-- A cycle strobed on a halted core does nothing (R77). -/
def haltedCycle (s : State) : Result := .next s

/-- Step 1, the fetched word: none where `pc` is above 0xFFE (R71, R33). -/
def fetch (s : State) : Option Word :=
  if s.pc.toNat ≤ 0xFFE then some (wordOfBytes (s.mem.read s.pc.toNat) (s.mem.read (s.pc.toNat + 1))) else none

/-- The fetch would touch an address above 0xFFF (R71, R145). -/
def fetchFault (s : State) : Result := raise .addressOutOfRange s.pc s

/-- An illegal word is executed (R74, R142). -/
def illegalCycle (w : Word) (s : State) : Result := raise .unknownOpcode w s

/-- The cause code of R141 (3 bits). -/
def FaultCause.code : FaultCause → BitVec 3
  | .none => 0
  | .unknownOpcode => 1
  | .stackOverflow => 2
  | .stackUnderflow => 3
  | .addressOutOfRange => 4
  | .keyIndexOutOfRange => 5

end Sys2Proof.Machine
end

