-- ==== Sys2Proof/Machine/Operands.lean ====
section
/-! DEFINITION. The operand forms: zero extension of immediates and registers (30_encoding.md R54), the one data addressing
mode (43_index_memory.md R116), and the operand computations of the memory instructions. -/

namespace Sys2Proof.Machine

/-- `zext_16` of an 8-bit value (R8, R54). -/
def zextByte (b : Byte) : Word := b.setWidth 16

/-- `zext_16` of the 12-bit address field (R8, R54). -/
def zextAddr (nnn : Addr) : Word := nnn.setWidth 16

/-- The address of byte `k` of an access through `I` (R116): an unbounded sum, never wrapped. -/
def State.dataAddr (s : State) (k : Nat) : Nat := s.i.toNat + k

/-- An instruction that touches `n` bytes at `I`: the whole range is checked before any effect (R38, R116). -/
def accessing (s : State) (n : Nat) (effect : State → State) : Result :=
  if InMemory (s.dataAddr 0) n then retire s effect else raise .addressOutOfRange s.i s

/-- The address of the glyph a register selects, `5 * Vx` in 16 bits (R112; D14, log 14). -/
def glyphAddr (b : Byte) : Word := zextByte b * 5

/-- The hundreds, tens and units digits of a byte (R113). -/
def decimalDigits (b : Byte) : List Byte := [b / 100, b / 10 % 10, b % 10]

/-- The values of V0 to Vx inclusive (R114). -/
def State.regsUpTo (s : State) (x : Reg) : List Byte := s.v.toList.take (x.val + 1)

/-- V0 to Vx loaded from the bytes at `I`, the other registers kept (R115). The order of the reads is not observable
(R41, log 28). -/
def State.loadRegs (s : State) (x : Reg) : State :=
  { s with v := Vector.ofFn fun k : Reg => if k.val ≤ x.val then s.mem.read (s.dataAddr k.val) else s.getV k }

/-- A skip, on the already advanced `pc` (R89). -/
def State.skipIf (s : State) (c : Bool) : State := if c then s.setPc (s.pc + 2) else s

/-- The key-conditional skips: the whole of Vx is the key index, and above 0x0F the instruction faults
(R130, R131, R147; D6, log 11).  The recorded word is the instruction's own (log 26). -/
def keySkip (self : Instr) (x : Reg) (wanted : Bool) (s : State) : Result :=
  if h : (s.getV x).toNat < 16 then retire s fun s' => s'.skipIf (s.k[(s.getV x).toNat] == wanted)
  else raise .keyIndexOutOfRange (encode self) s

/-- The lowest pressed key `FX0A` scans, if any (R132). -/
def Keys.lowest (keys : Keys) : Option Reg :=
  (List.finRange 16).find? fun k => decide (k.val ≤ waitKeyLast) && keys[k]

end Sys2Proof.Machine
end

