-- ==== Sys2Proof/Machine/Flags.lean ====
section
/-! DEFINITION. The flag computations (10_state.md R12; 42_alu.md R97 to R101, R104): the only flag is VF, an ordinary
register written with 0x00 or 0x01. -/

namespace Sys2Proof.Machine

/-- A flag as the byte written to VF (R12). -/
def flagByte (c : Bool) : Byte := if c then 1 else 0

/-- The carry-out of an 8-bit sum (R97, R104). -/
def carryOut (a b : Byte) : Bool := decide (256 ≤ a.toNat + b.toNat)

/-- NOT borrow of `a - b` (R98, R100, R104). -/
def noBorrow (a b : Byte) : Bool := decide (b.toNat ≤ a.toNat)

/-- The bit a right shift moves out (R99). -/
def lowBit (a : Byte) : Bool := a.getLsbD 0

/-- The bit a left shift moves out (R101). -/
def highBit (a : Byte) : Bool := a.getLsbD 7

/-- `V[15] <- flag` (R12). -/
def State.setFlag (s : State) (c : Bool) : State := s.setV VF (flagByte c)

end Sys2Proof.Machine
end

