-- ==== Sys2Proof/Machine/Alu.lean ====
section
/-! DEFINITION. Register load, arithmetic, logic, shift and random instructions (42_alu.md).  The writes of one instruction
happen in the order of its rule, each seeing the earlier ones (R90; the spec's decision D8, log 6). -/

namespace Sys2Proof.Machine

/-- `6XNN`, load immediate (R91). -/
def execLdVxNn (x : Reg) (nn : Byte) (s : State) : Result := retire s fun s' => s'.setV x nn

/-- `7XNN`, add immediate, no flag (R92). -/
def execAddVxNn (x : Reg) (nn : Byte) (s : State) : Result :=
  retire s fun s' => s'.setV x (s'.getV x + nn)

/-- `8XY0`, register move (R93). -/
def execLdVxVy (x y : Reg) (s : State) : Result := retire s fun s' => s'.setV x (s'.getV y)

/-- `8XY1`, bitwise or, no flag (R94). -/
def execOr (x y : Reg) (s : State) : Result := retire s fun s' => s'.setV x (s'.getV x ||| s'.getV y)

/-- `8XY2`, bitwise and, no flag (R95). -/
def execAnd (x y : Reg) (s : State) : Result := retire s fun s' => s'.setV x (s'.getV x &&& s'.getV y)

/-- `8XY3`, bitwise exclusive or, no flag (R96). -/
def execXor (x y : Reg) (s : State) : Result := retire s fun s' => s'.setV x (s'.getV x ^^^ s'.getV y)

/-- `8XY4`, add, then VF = carry-out (R97). -/
def execAddVxVy (x y : Reg) (s : State) : Result :=
  retire s fun s' => (s'.setV x (s'.getV x + s'.getV y)).setFlag (carryOut (s'.getV x) (s'.getV y))

/-- `8XY5`, subtract, then VF = no borrow (R98). -/
def execSub (x y : Reg) (s : State) : Result :=
  retire s fun s' => (s'.setV x (s'.getV x - s'.getV y)).setFlag (noBorrow (s'.getV x) (s'.getV y))

/-- `8XY6`, VF = the bit shifted out, then shift right by one, reading Vx after the flag was written (R99).
Vy is not read. -/
def execShr (x _y : Reg) (s : State) : Result :=
  retire s fun s' =>
    let flagged := s'.setFlag (lowBit (s'.getV x))
    flagged.setV x (flagged.getV x >>> 1)

/-- `8XY7`, reverse subtract into Vx, then VF = no borrow (R100). -/
def execSubn (x y : Reg) (s : State) : Result :=
  retire s fun s' => (s'.setV x (s'.getV y - s'.getV x)).setFlag (noBorrow (s'.getV y) (s'.getV x))

/-- `8XYE`, VF = the bit shifted out, then shift left by one, reading Vx after the flag was written (R101).
Vy is not read. -/
def execShl (x _y : Reg) (s : State) : Result :=
  retire s fun s' =>
    let flagged := s'.setFlag (highBit (s'.getV x))
    flagged.setV x (flagged.getV x <<< 1)

/-- `CXNN`, a random byte AND NN (R102).  The random byte is a free value, one draw for each `CXNN` (R103; log 1). -/
def execRnd (x : Reg) (nn : Byte) (s : State) : Result :=
  retire s fun s' => (s'.setV x (Config.rnd s'.draws &&& nn)).nextDraw

end Sys2Proof.Machine
end

