-- ==== Sys2Proof/Machine/Control.lean ====
section
/-! DEFINITION. Control-flow instructions (41_control_flow.md).  Here and in the other families, a meaning is the whole
cycle of its instruction from the state at the cycle's start: advance, the rule's effect, tick (`retire`), or fault entry
(`raise`) (40_cycle.md R72 to R76; log 18).  The rules' pseudocode is written against the advanced `pc`, as here. -/

namespace Sys2Proof.Machine

/-- `00EE`, return (R80). -/
def execRet (s : State) : Result :=
  if s.sp.val = 0 then raise .stackUnderflow (encode .ret) s
  else retire s fun s' => s'.popPc

/-- `1NNN`, jump (R81). -/
def execJp (nnn : Addr) (s : State) : Result := retire s fun s' => s'.setPc (zextAddr nnn)

/-- `2NNN`, call (R82): the pushed value is the advanced `pc`. -/
def execCall (nnn : Addr) (s : State) : Result :=
  if s.sp.val = 16 then raise .stackOverflow (encode (.call nnn)) s
  else retire s fun s' => (s'.push s'.pc).setPc (zextAddr nnn)

/-- `3XNN`, skip if Vx = NN (R83, R89). -/
def execSeVxNn (x : Reg) (nn : Byte) (s : State) : Result :=
  retire s fun s' => s'.skipIf (s'.getV x == nn)

/-- `4XNN`, skip if Vx ≠ NN (R84, R89). -/
def execSneVxNn (x : Reg) (nn : Byte) (s : State) : Result :=
  retire s fun s' => s'.skipIf (s'.getV x != nn)

/-- `5XY0`, skip if Vx = Vy (R85, R89). -/
def execSeVxVy (x y : Reg) (s : State) : Result :=
  retire s fun s' => s'.skipIf (s'.getV x == s'.getV y)

/-- `9XY0`, skip if Vx ≠ Vy (R86, R89). -/
def execSneVxVy (x y : Reg) (s : State) : Result :=
  retire s fun s' => s'.skipIf (s'.getV x != s'.getV y)

/-- `BNNN`, jump to NNN + V0 (R87); `I` is not changed (the spec's decision D2, log 5). -/
def execJpV0 (nnn : Addr) (s : State) : Result :=
  retire s fun s' => s'.setPc (zextAddr nnn + zextByte (s'.getV 0))

end Sys2Proof.Machine
end

