-- ==== Sys2Proof/Machine/Display.lean ====
section
/-! DEFINITION. The framebuffer operations and the two display instructions (44_display.md). -/

namespace Sys2Proof.Machine

/-- The pixel at (x, y), coordinates taken modulo 64 and 32 (R20, R120). -/
def FrameBuffer.pixel (f : FrameBuffer) (x y : Nat) : Bool :=
  (f[y % 32]'(Nat.mod_lt y (by decide)))[x % 64]'(Nat.mod_lt x (by decide))

/-- Write the pixel at (x, y), coordinates taken modulo 64 and 32 (R20, R120). -/
def FrameBuffer.setPixel (f : FrameBuffer) (x y : Nat) (b : Bool) : FrameBuffer :=
  f.set (y % 32) ((f[y % 32]'(Nat.mod_lt y (by decide))).set (x % 64) b (Nat.mod_lt x (by decide)))
    (Nat.mod_lt y (by decide))

/-- A blit in progress: the framebuffer, and whether a pixel has gone from set to unset (R121). -/
structure Blit where
  fb        : FrameBuffer
  collision : Bool
  deriving DecidableEq, Repr

/-- One sprite bit at (x, y): XOR into the pixel, record a collision (R121). -/
def Blit.toggle (d : Blit) (x y : Nat) (bit : Bool) : Blit :=
  ⟨d.fb.setPixel x y (d.fb.pixel x y ^^ bit), d.collision || (d.fb.pixel x y && bit)⟩

/-- The bits of a sprite row still to draw, the leftmost at column `x` (R121: bit 7 is the leftmost). -/
def Blit.bits (d : Blit) (x y : Nat) : List Bool → Blit
  | [] => d
  | b :: bs => Blit.bits (d.toggle x y b) (x + 1) y bs

/-- The bits of a sprite byte, most significant first (R121: `bytes[j][7 - i]`). -/
def spriteBits (b : Byte) : List Bool :=
  [b.getLsbD 7, b.getLsbD 6, b.getLsbD 5, b.getLsbD 4, b.getLsbD 3, b.getLsbD 2, b.getLsbD 1, b.getLsbD 0]

/-- The sprite rows still to draw, the first at row `y` (R121). -/
def Blit.rows (d : Blit) (x y : Nat) : List Byte → Blit
  | [] => d
  | b :: bs => Blit.rows (d.bits x y (spriteBits b)) x (y + 1) bs

/-- The XOR sprite blit of R121: the new framebuffer and the collision flag. -/
def draw (f : FrameBuffer) (x y : Nat) (bytes : List Byte) : Blit := Blit.rows ⟨f, false⟩ x y bytes

/-- `00E0`, clear the display (R122, R123). -/
def execCls (s : State) : Result := retire s fun s' => s'.setFb FrameBuffer.blank

/-- Draw the sprite of `n` bytes at `I` at (Vx, Vy) and write the collision to VF (R124). -/
def State.drawSprite (s : State) (x y : Reg) (n : Nat) : State :=
  let d := draw s.fb (s.getV x).toNat (s.getV y).toNat (s.mem.readBytes (s.dataAddr 0) n)
  (s.setFb d.fb).setFlag d.collision

/-- `DXYN`, draw sprite (R124). -/
def execDrw (x y : Reg) (n : Nibble) (s : State) : Result :=
  accessing s n.toNat fun s' => s'.drawSprite x y n.toNat

end Sys2Proof.Machine
end

