-- ==== Sys2Proof/Machine/IndexMem.lean ====
section
/-! DEFINITION. Index-register and memory instructions (43_index_memory.md).  None of the stores and loads changes `I`
(R116; the spec's decision D16, log 15). -/

namespace Sys2Proof.Machine

/-- `ANNN`, load index (R110). -/
def execLdINnn (nnn : Addr) (s : State) : Result := retire s fun s' => s'.setI (zextAddr nnn)

/-- `FX1E`, add register to index, wrapping at 16 bits, no flag (R111; D15, log 14). -/
def execAddIVx (x : Reg) (s : State) : Result := retire s fun s' => s'.setI (s'.i + zextByte (s'.getV x))

/-- `FX29`, index of a font glyph (R112). -/
def execLdFVx (x : Reg) (s : State) : Result := retire s fun s' => s'.setI (glyphAddr (s'.getV x))

/-- `FX33`, store the three decimal digits of Vx (R113). -/
def execLdBVx (x : Reg) (s : State) : Result :=
  accessing s 3 fun s' => s'.setMem (s'.mem.storeBytes (s'.dataAddr 0) (decimalDigits (s'.getV x)))

/-- `FX55`, store V0 to Vx (R114). -/
def execLdMiVx (x : Reg) (s : State) : Result :=
  accessing s (x.val + 1) fun s' => s'.setMem (s'.mem.storeBytes (s'.dataAddr 0) (s'.regsUpTo x))

/-- `FX65`, load V0 to Vx (R115). -/
def execLdVxMi (x : Reg) (s : State) : Result := accessing s (x.val + 1) fun s' => s'.loadRegs x

end Sys2Proof.Machine
end

