-- ==== Sys2Proof/Machine/KeysTimers.lean ====
section
/-! DEFINITION. Key and timer instructions (45_keys_timers.md). -/

namespace Sys2Proof.Machine

/-- `EX9E`, skip if key Vx is pressed (R130). -/
def execSkp (x : Reg) (s : State) : Result := keySkip (.skp x) x true s

/-- `EXA1`, skip if key Vx is not pressed (R131). -/
def execSknp (x : Reg) (s : State) : Result := keySkip (.sknp x) x false s

/-- `FX0A`, wait for a key (R132): with no scanned key pressed, `pc` goes back to this instruction. -/
def execLdVxK (x : Reg) (s : State) : Result :=
  retire s fun s' =>
    match s'.k.lowest with
    | none => s'.setPc (s'.pc - 2)
    | some key => s'.setV x (BitVec.ofNat 8 key.val)

/-- `FX07`, read the delay timer, before this cycle's tick (R133). -/
def execLdVxDt (x : Reg) (s : State) : Result := retire s fun s' => s'.setV x s'.dt

/-- `FX15`, set the delay timer; this cycle's tick then counts it down (R134, R137). -/
def execLdDtVx (x : Reg) (s : State) : Result := retire s fun s' => s'.setDt (s'.getV x)

/-- `FX18`, set the sound timer; this cycle's tick then counts it down (R135, R137). -/
def execLdStVx (x : Reg) (s : State) : Result := retire s fun s' => s'.setSt (s'.getV x)

end Sys2Proof.Machine
end

