-- ==== Sys2Proof/Machine/Step.lean ====
section
/-! DEFINITION. One cycle of the core (40_cycle.md R79), and how the host places an instruction. -/

namespace Sys2Proof.Machine

/-- The step function of R79: halted test, fetch, decode, and the instruction's cycle.  It always answers a next state. -/
def step (s : State) : Host.Outcome State Fault Refusal :=
  if s.halted then haltedCycle s
  else
    match fetch s with
    | none => fetchFault s
    | some w =>
      match decodeWord w with
      | .ok i => exec i s
      | .error _ => illegalCycle w s

/-- Place an instruction word where `step` fetches next (log 19): at `pc`, big-endian (R33).  A fetch needs a core that is
not halted (R77) and a `pc` of at most 0xFFE (R71), so a fault latch is cleared and a `pc` above that is put back to 0x200;
nothing else changes. -/
def State.withFetchWord (s : State) (nbits w : Nat) : State :=
  let pc := if s.pc.toNat ≤ 0xFFE then s.pc else 0x0200#16
  let fault := if s.halted then ⟨.none, 0x0000#16⟩ else s.fault
  { s with pc := pc, fault := fault, mem := s.mem.storeBytes pc.toNat (wordBytes (tableWord nbits w)) }

end Sys2Proof.Machine
end

