-- ==== Sys2Proof/WellFormed.lean ====
section
/-! DEFINITION. What the machine takes as well formed: an instruction word (30_encoding.md R57) and a program image
(70_reset_and_hazards.md R176).  A term of `Instr` needs no check of its own: its fields carry their bounds (log 21, log 24). -/

namespace Sys2Proof

/-- The illegal words, row for row the table of R57. -/
def illegalWord (w : Word) : Bool :=
  let op := w.toNat / 4096
  let nn := w.toNat % 256
  let n := w.toNat % 16
  (op == 0x0 && w != 0x00E0#16 && w != 0x00EE#16)
  || (op == 0x5 && n != 0)
  || (op == 0x8 && [0x8, 0x9, 0xA, 0xB, 0xC, 0xD, 0xF].contains n)
  || (op == 0x9 && n != 0)
  || (op == 0xE && !([0x9E, 0xA1].contains nn))
  || (op == 0xF && !([0x07, 0x0A, 0x15, 0x18, 0x1E, 0x29, 0x33, 0x55, 0x65].contains nn))

/-- A word is well formed when it is no illegal word (R57). -/
def wordWellFormed (w : Word) : Bool := !illegalWord w

/-- A program image fits between 0x200 and the end of memory (R176). -/
def imageWellFormed (bytes : List Byte) : Bool := decide (bytes.length ≤ Config.progMax)

end Sys2Proof
end

