-- ==== Sys2Proof/Machine/HostOps.lean ====
section
/-! DEFINITION. The host interface (60_exceptions.md R155 to R163, 70_reset_and_hazards.md R170 to R177): the operations
the host performs between two cycles.  `STEP` is `step`; an operation that overlaps a cycle has no meaning (R43, log 17). -/

namespace Sys2Proof.Machine

/-- `RESET` (R170): the state after it does not depend on the state before.  The draw counter, which is no state of the
core, goes on, so that draws after a reset are fresh (R103; log 1). -/
def State.hostReset (s : State) : State := { State.reset with draws := s.draws }

/-- The status `LOAD` returns (R148, R176). -/
inductive LoadStatus where
  | ok
  | loadError
  deriving DecidableEq, Repr

/-- `LOAD(bytes)` (R176, R177): copies the image to 0x200 upward, or fails with no effect. -/
def State.load (s : State) (bytes : List Byte) : State × LoadStatus :=
  if imageWellFormed bytes then (s.setMem (s.mem.storeBytes Config.progBase bytes), .ok) else (s, .loadError)

/-- `PRESS(k)` (R136, R157). -/
def State.press (s : State) (key : Reg) : State := { s with k := s.k.set key true }

/-- `RELEASE(k)` (R136, R157). -/
def State.release (s : State) (key : Reg) : State := { s with k := s.k.set key false }

/-- `pressed(k)`, a pure query (R136). -/
def State.pressed (s : State) (key : Reg) : Bool := s.k[key]

/-- `READ_FB` (R158): the 2048 pixels, row-major: element `y * 64 + x` is the pixel (x, y). -/
def State.readFb (s : State) : Vector Bool 2048 := Vector.ofFn fun k => s.fb.pixel (k.val % 64) (k.val / 64)

/-- `READ_ST` (R159). -/
def State.readSt (s : State) : Byte := s.st

/-- `READ_FAULT` (R160): cause code and information. -/
def State.readFault (s : State) : BitVec 3 × Word := (s.fault.cause.code, s.fault.info)

/-- The host operations that can change the state (R155). -/
inductive HostOp where
  | reset
  | load (bytes : List Byte)
  | step
  | press (key : Reg)
  | release (key : Reg)
  deriving DecidableEq, Repr

/-- One host operation (R155, R156). -/
def HostOp.apply (op : HostOp) (s : State) : Result :=
  match op with
  | .reset => .next s.hostReset
  | .load bytes => .next (s.load bytes).1
  | .step => Sys2Proof.Machine.step s
  | .press key => .next (s.press key)
  | .release key => .next (s.release key)

/-- A host script: its operations one after another (R43). -/
def runScript : List HostOp → State → Result
  | [], s => .next s
  | op :: ops, s =>
    match op.apply s with
    | .next t => runScript ops t
    | .fault r => .fault r
    | .refused r => .refused r

end Sys2Proof.Machine
end

