-- ==== Sys2Proof/Safety.lean ====
section
/-! DEFINITION. What claims use: the invariant of the states a run reaches, and what a safe run is. -/

namespace Sys2Proof.Machine

/-- The invariant of every reachable state: memory is canonical; `pc` is at most 0x10FE (R14); every stack slot is a
return address of at most 0x1000 (R82: a call's address plus 2); an empty latch records no information (R141). -/
structure State.Inv (s : State) : Prop where
  memWf : s.mem.wf
  pcBound : s.pc.toNat ≤ 0x10FE
  slotBound : ∀ k : Fin 16, s.stack[k].toNat ≤ 0x1000
  noInfo : s.fault.cause = .none → s.fault.info = 0

/-- A run of `n` cycles on which the core never halts. -/
def SafeFor : Nat → State → Prop
  | 0, s => s.halted = false
  | n + 1, s => s.halted = false ∧ ∃ t, step s = .next t ∧ SafeFor n t

end Sys2Proof.Machine
end

