-- ==== Sys2Proof/Certificates/Slice0/Obligations.lean ====
section
/-! DEFINITION. The statements for the provers.  Each says which rule of spec/ it formalises; where a clause rests on one
of the spec's own decisions (D<n> of 92_eei_decisions.md) or on a choice of the model, the docstring says so. -/

namespace Sys2Proof.Claims

open Sys2Proof.Machine

/-- The parts of the state a frame speaks of. -/
inductive Part where
  | regs | pc | index | stack | timers | display | keys | memory | fault | draws
  deriving DecidableEq, Repr

/-- One part is the same in both states; memory is compared by reading every byte. -/
def Unchanged (s t : State) : Part → Prop
  | .regs => ∀ r : Reg, t.getV r = s.getV r
  | .pc => t.pc = s.pc
  | .index => t.i = s.i
  | .stack => t.stack = s.stack ∧ t.sp = s.sp
  | .timers => t.dt = s.dt ∧ t.st = s.st
  | .display => t.fb = s.fb
  | .keys => t.k = s.k
  | .memory => ∀ a : Nat, t.mem.read a = s.mem.read a
  | .fault => t.fault = s.fault
  | .draws => t.draws = s.draws

/-- Every part outside the list is unchanged. -/
def OnlyChanges (s t : State) (parts : List Part) : Prop := ∀ p : Part, p ∉ parts → Unchanged s t p

/-- Both timers counted down by one, floored at zero (R75). -/
def Ticked (s t : State) : Prop := t.dt.toNat = s.dt.toNat - 1 ∧ t.st.toNat = s.st.toNat - 1

/-- Every register but the named one is unchanged. -/
def RegsBut (s t : State) (x : Reg) : Prop := ∀ r : Reg, r ≠ x → t.getV r = s.getV r

/-- Every register but the named one and VF is unchanged. -/
def RegsButFlag (s t : State) (x : Reg) : Prop := ∀ r : Reg, r ≠ x → r ≠ VF → t.getV r = s.getV r

/-- The frame of an instruction that writes registers only: `pc` moves to the next instruction and the timers tick. -/
def RegisterCycle (s t : State) : Prop :=
  t.pc = s.pc + 2 ∧ Ticked s t ∧ OnlyChanges s t [.regs, .pc, .timers]

/-- The frame of an instruction that writes `pc` only, to `target`; the timers tick. -/
def JumpCycle (s t : State) (target : Word) : Prop :=
  t.pc = target ∧ Ticked s t ∧ OnlyChanges s t [.pc, .timers]

/-- The state of a cycle that faults: only the latch changes (R76, R146). -/
def faulted (s : State) (c : FaultCause) (info : Word) : State := { s with fault := ⟨c, info⟩ }

/-- The number of the word with digits op, X and immediate NN (format XNN of R53). -/
def numXNN (op : Nat) (x : Reg) (nn : Byte) : Nat := op * 4096 + x.val * 256 + nn.toNat

/-- The number of the word with digits op, X, Y, N (formats XY and XYN of R53). -/
def numXYN (op : Nat) (x y : Reg) (n : Nat) : Nat := op * 4096 + x.val * 256 + y.val * 16 + n

/-- A sprite bit that is 1 lands on the pixel (cx, cy): bit `i` of row `j` of the `n` bytes at `I`, drawn at (Vx, Vy), with
bit 7 leftmost and both coordinates wrapping (R121). -/
def SpriteCovers (s : State) (x y : Reg) (n cx cy : Nat) : Prop :=
  ∃ j < n, ∃ i < 8, ((s.getV x).toNat + i) % 64 = cx ∧ ((s.getV y).toNat + j) % 32 = cy ∧
    (s.mem.read (s.dataAddr j)).getLsbD (7 - i) = true

/-- `pc` at the end of a completed cycle of `i` fetched at `s.pc`, as the table of R14 lists it. -/
def nextPc (i : Instr) (s : State) : Nat :=
  let a := s.pc.toNat
  let skip (c : Bool) := if c then a + 4 else a + 2
  match i with
  | .jp nnn => nnn.toNat
  | .call nnn => nnn.toNat
  | .ret => (s.stack[s.sp.val - 1]).toNat
  | .jpV0 nnn => nnn.toNat + (s.getV 0).toNat
  | .seVxNn x nn => skip (s.getV x == nn)
  | .sneVxNn x nn => skip (s.getV x != nn)
  | .seVxVy x y => skip (s.getV x == s.getV y)
  | .sneVxVy x y => skip (s.getV x != s.getV y)
  | .skp x => skip (decide (∃ key : Reg, key.val = (s.getV x).toNat ∧ s.k[key] = true))
  | .sknp x => skip (decide (∃ key : Reg, key.val = (s.getV x).toNat ∧ s.k[key] = false))
  | .ldVxK _ => if ∃ key : Reg, key.val ≤ 0xE ∧ s.k[key] = true then a + 2 else a
  | _ => a + 2

/-- The registers an instruction may write: its destinations, and VF for the six of R12. -/
def mayWrite (i : Instr) (r : Reg) : Prop :=
  match i with
  | .ldVxNn x _ | .addVxNn x _ | .rnd x _ => r = x
  | .ldVxVy x _ | .orVxVy x _ | .andVxVy x _ | .xorVxVy x _ => r = x
  | .addVxVy x _ | .sub x _ | .subn x _ | .shr x _ | .shl x _ => r = x ∨ r = VF
  | .drw _ _ _ => r = VF
  | .ldVxDt x | .ldVxK x => r = x
  | .ldVxMi x => r.val ≤ x.val
  | _ => False

/-- When a cycle that starts in `s` records the cause `c` with the information `info` (R141 and the tables it cites). -/
def FaultsWith (s : State) (c : FaultCause) (info : Word) : Prop :=
  match c with
  | .none => False
  | .unknownOpcode => ∃ w, fetch s = some w ∧ illegalWord w = true ∧ info = w
  | .stackOverflow => ∃ nnn, fetch s = some (encode (.call nnn)) ∧ s.sp.val = 16 ∧ info = encode (.call nnn)
  | .stackUnderflow => fetch s = some 0x00EE#16 ∧ s.sp.val = 0 ∧ info = 0x00EE#16
  | .addressOutOfRange =>
    (0xFFE < s.pc.toNat ∧ info = s.pc) ∨
    (info = s.i ∧
      ((∃ x y n, fetch s = some (encode (.drw x y n)) ∧ 0 < n.toNat ∧ 0xFFF < s.i.toNat + n.toNat - 1) ∨
       (∃ x, fetch s = some (encode (.ldBVx x)) ∧ 0xFFF < s.i.toNat + 2) ∨
       (∃ x, fetch s = some (encode (.ldMiVx x)) ∧ 0xFFF < s.i.toNat + x.val) ∨
       (∃ x, fetch s = some (encode (.ldVxMi x)) ∧ 0xFFF < s.i.toNat + x.val)))
  | .keyIndexOutOfRange =>
    ∃ x i, (i = .skp x ∨ i = .sknp x) ∧ fetch s = some (encode i) ∧ 0x0F < (s.getV x).toNat ∧ info = encode i

/-- What the source's own reset list gives (R170, the first seven lines; R22 and the scenario of §8 for 0x200 upward). -/
def ResetList (r : State) : Prop :=
  r.pc = 0x0200#16 ∧ r.i = 0 ∧ r.sp.val = 0 ∧ r.dt = 0 ∧ r.st = 0 ∧
  (∀ x y, r.fb.pixel x y = false) ∧ (∀ key : Reg, r.k[key] = false) ∧
  (∀ a, a < 80 → font[a]? = some (r.mem.read a)) ∧
  (∀ a, 0x200 ≤ a → a ≤ 0xFFF → r.mem.read a = 0)

/-- What the spec adds to it (R170, the last four lines: D9, D3, D4). -/
def ResetAdditions (r : State) : Prop :=
  (∀ x : Reg, r.getV x = 0) ∧ (∀ slot : Fin 16, r.stack[slot] = 0) ∧
  (∀ a, 0x50 ≤ a → a ≤ 0x1FF → r.mem.read a = 0) ∧ r.readFault = (0, 0)

end Sys2Proof.Claims

open Sys2Proof Sys2Proof.Machine Sys2Proof.Claims

/-! ## Encoding -/

/-- Decoding an encoded instruction gives it back, every operand at every value, whatever bytes follow (R50 to R56). -/
def Obligations.DecodeOfEncode : Prop :=
  ∀ (i : Instr) (rest : List Byte), decode (encodeBytes i ++ rest) = .ok (i, rest)

/-- Every word that decodes is the encoding of what it decodes to: no bit of a legal word is dropped (R52, R56). -/
def Obligations.EncodeOfDecode : Prop :=
  ∀ (w : Word) (i : Instr), decodeWord w = .ok i → encode i = w

/-- A word selects exactly the row it matches under the row's mask (R55, R56; comparing every literal digit is the spec's
decision D11). -/
def Obligations.WordSelectsItsRow : Prop :=
  (∀ (w : Word) (i : Instr), decodeWord w = .ok i → w &&& i.row.mask = i.row.pattern) ∧
  (∀ (w : Word) (j : Instr), w &&& j.row.mask = j.row.pattern → ∃ i, decodeWord w = .ok i ∧ i.row = j.row)

/-- The words the decoder rejects are exactly the illegal words of the table of R57, rejected by name (D1, D11). -/
def Obligations.IllegalWordsAreRejected : Prop :=
  ∀ w : Word, (illegalWord w = true ↔ decodeWord w = .error (.unknownOpcode w)) ∧
    (illegalWord w = false ↔ ∃ i, decodeWord w = .ok i)

/-- Words written out from the encodings of R56, one or more of every family, decode to the instructions they stand for. -/
def Obligations.WrittenWordsDecode : Prop :=
  decodeWord 0x00E0#16 = .ok .cls ∧ decodeWord 0x00EE#16 = .ok .ret ∧
  decodeWord 0x1234#16 = .ok (.jp 0x234#12) ∧ decodeWord 0x332A#16 = .ok (.seVxNn 3 0x2A#8) ∧
  decodeWord 0x5120#16 = .ok (.seVxVy 1 2) ∧ decodeWord 0x8014#16 = .ok (.addVxVy 0 1) ∧
  decodeWord 0x8236#16 = .ok (.shr 2 3) ∧ decodeWord 0xC30F#16 = .ok (.rnd 3 0x0F#8) ∧
  decodeWord 0xD125#16 = .ok (.drw 1 2 5#4) ∧ decodeWord 0xE59E#16 = .ok (.skp 5) ∧
  decodeWord 0xF20A#16 = .ok (.ldVxK 2) ∧ decodeWord 0xF255#16 = .ok (.ldMiVx 2) ∧
  decodeWord 0xF315#16 = .ok (.ldDtVx 3)

/-! ## The cycle -/

/-- A core that is not halted runs the instruction the two bytes at `pc` decode to; `exec` is that instruction's whole
cycle from the same state, and `step` adds nothing around it (R71 to R75). -/
def Obligations.StepRunsDecodedInstruction : Prop :=
  ∀ (s : State) (i : Instr), s.halted = false → s.pc.toNat ≤ 0xFFE →
    decode [s.mem.read s.pc.toNat, s.mem.read (s.pc.toNat + 1)] = .ok (i, []) → step s = exec i s

/-- A fetch above 0xFFE latches AddressOutOfRange with `pc` and changes nothing else (R71, R145: the spec's decision D5;
what a fault leaves is D3, D4). -/
def Obligations.FetchAboveMemoryFaults : Prop :=
  ∀ s : State, s.halted = false → 0xFFE < s.pc.toNat → step s = .next (faulted s .addressOutOfRange s.pc)

/-- Executing an illegal word latches UnknownOpcode with the word and changes nothing else (R57, R74, R142: D1, D3, D4). -/
def Obligations.IllegalWordFaults : Prop :=
  ∀ s : State, s.halted = false → s.pc.toNat ≤ 0xFFE →
    illegalWord (s.mem.read s.pc.toNat ++ s.mem.read (s.pc.toNat + 1)) = true →
    step s = .next (faulted s .unknownOpcode (s.mem.read s.pc.toNat ++ s.mem.read (s.pc.toNat + 1)))

/-- The three outcomes of a cycle (R79; precise faults R76, R151 and halting R77 are the spec's decision D3): a halted core
is unchanged; otherwise the cycle either faults, and then differs from the start in the latch only, or completes the
fetched instruction with the latch untouched. -/
def Obligations.CycleOutcomes : Prop :=
  ∀ s : State,
    (s.fault.cause ≠ .none → step s = .next s) ∧
    (s.fault.cause = .none → ∃ t, step s = .next t ∧
      ((t.fault.cause ≠ .none ∧ t = faulted s t.fault.cause t.fault.info) ∨
       (t.fault = s.fault ∧ ∃ i, fetch s = some (encode i) ∧ exec i s = .next t)))

/-- A cycle records a cause and its information exactly when the table of R141 says so (the codes and the information are
the spec's decision D4; D1, D5, D6). -/
def Obligations.FaultCausesAreExact : Prop :=
  ∀ (s t : State) (c : FaultCause) (info : Word), s.fault = ⟨.none, 0⟩ → c ≠ .none → step s = .next t →
    (t.fault = ⟨c, info⟩ ↔ FaultsWith s c info)

/-- The tick (R75): in every cycle that does not fault both timers count down by one, floored at zero, after the
instruction: an `FX15` or `FX18` of the same cycle is counted down from the value it wrote, an `FX07` reads the value
before the tick. -/
def Obligations.TimersTickEachCompletedCycle : Prop :=
  ∀ (s t : State), step s = .next t → t.fault.cause = .none →
    ∃ i, fetch s = some (encode i) ∧
      t.dt.toNat = (match i with | .ldDtVx x => (s.getV x).toNat - 1 | _ => s.dt.toNat - 1) ∧
      t.st.toNat = (match i with | .ldStVx x => (s.getV x).toNat - 1 | _ => s.st.toNat - 1) ∧
      (∀ x, i = .ldVxDt x → t.getV x = s.dt)

/-- The value of `pc` at the end of every cycle (the table of R14; the row of `BNNN` is the spec's decision D2, that of
`FX0A` D7, that of a fault D3). -/
def Obligations.ProgramCounterTable : Prop :=
  ∀ (s t : State) (i : Instr), s.halted = false → fetch s = some (encode i) → step s = .next t →
    (t.fault.cause = .none → t.pc.toNat = nextPc i s) ∧ (t.fault.cause ≠ .none → t.pc = s.pc)

/-! ## Invariants -/

/-- The invariant holds after reset. -/
def Obligations.InvariantAfterReset : Prop := State.reset.Inv

/-- Every cycle keeps the invariant: memory stays canonical, `pc` at most 0x10FE (R14), stack slots at most 0x1000, and an
empty latch without information. -/
def Obligations.StepKeepsInvariant : Prop :=
  ∀ s t : State, s.Inv → step s = .next t → t.Inv

/-- Every host script keeps the invariant, whatever the host loads, presses and resets (R155, R163). -/
def Obligations.HostScriptKeepsInvariant : Prop :=
  ∀ (ops : List HostOp) (s t : State), s.Inv → runScript ops s = .next t → t.Inv

/-! ## Rules over the whole machine -/

/-- No cycle changes a key flag (R21: "mutated only by press/release"). -/
def Obligations.CyclesKeepKeys : Prop :=
  ∀ s t : State, step s = .next t → t.k = s.k

/-- The stack discipline of R16 and R17: a cycle pushes by `2NNN`, pops by `00EE`, and otherwise leaves stack and `sp`
alone; a push writes the slot `sp` and no other. -/
def Obligations.StackDiscipline : Prop :=
  ∀ s t : State, step s = .next t →
    (∃ nnn, fetch s = some (encode (.call nnn)) ∧ t.sp.val = s.sp.val + 1 ∧
      ∀ slot : Fin 16, t.stack[slot] = if slot.val = s.sp.val then s.pc + 2 else s.stack[slot]) ∨
    (fetch s = some 0x00EE#16 ∧ t.sp.val + 1 = s.sp.val ∧ t.stack = s.stack) ∨
    (t.sp = s.sp ∧ t.stack = s.stack)

/-- The framebuffer changes only by `00E0` and `DXYN` (R20, R120). -/
def Obligations.DisplayWriters : Prop :=
  ∀ s t : State, step s = .next t → t.fb ≠ s.fb →
    fetch s = some 0x00E0#16 ∨ ∃ x y n, fetch s = some (encode (.drw x y n))

/-- A byte of memory changes only by `FX33`, in the three bytes at `I`, and by `FX55`, in the X + 1 bytes at `I`
(R32, R37). -/
def Obligations.MemoryWriters : Prop :=
  ∀ (s t : State) (a : Nat), s.mem.wf → step s = .next t → t.mem.read a ≠ s.mem.read a →
    (∃ x, fetch s = some (encode (.ldBVx x)) ∧ ∃ k < 3, a = s.dataAddr k) ∨
    (∃ x, fetch s = some (encode (.ldMiVx x)) ∧ ∃ k ≤ x.val, a = s.dataAddr k)

/-- A general register changes only by an instruction that names it as destination, and VF only by those and the six of
R12 (R11, R12, R181). -/
def Obligations.RegisterWriters : Prop :=
  ∀ (s t : State) (r : Reg), step s = .next t → t.getV r ≠ s.getV r →
    ∃ i, fetch s = some (encode i) ∧ mayWrite i r

/-- Only `RESET` clears a recorded fault (R23, R77, R152: D3): under every other host operation a latch that holds a fault
keeps it. -/
def Obligations.LatchIsClearedOnlyByReset : Prop :=
  ∀ (op : HostOp) (s t : State), op ≠ .reset → s.fault.cause ≠ .none → op.apply s = .next t → t.fault = s.fault

/-- The random byte is read by `CXNN` only (R103; the counter that selects it is the model's own, log 1): a cycle of any
other instruction does the same whichever draw is next. -/
def Obligations.OnlyRndReadsRandomByte : Prop :=
  ∀ (s t : State) (d : Nat), (∀ x nn, fetch s ≠ some (encode (.rnd x nn))) → step s = .next t →
    step { s with draws := d } = .next { t with draws := d }

/-- No instruction reads the sound timer (R19): changing it changes nothing but the sound timer. -/
def Obligations.SoundTimerIsNotRead : Prop :=
  ∀ (s t : State) (b : Byte), step s = .next t → ∃ b', step { s with st := b } = .next { t with st := b' }

/-- A stale stack slot cannot be observed (R16): changing slots at or above `sp` changes nothing else in the next state,
and there again only slots at or above its `sp`. -/
def Obligations.StaleSlotsAreUnobservable : Prop :=
  ∀ (s t : State) (stack : Vector Word 16),
    (∀ slot : Fin 16, slot.val < s.sp.val → stack[slot] = s.stack[slot]) → step s = .next t →
    ∃ stack' : Vector Word 16, step { s with stack := stack } = .next { t with stack := stack' } ∧
      ∀ slot : Fin 16, slot.val < t.sp.val → stack'[slot] = t.stack[slot]

/-! ## Control flow -/

/-- `1NNN` jumps to NNN (R81). -/
def Obligations.JumpSetsPc : Prop :=
  ∀ (nnn : Addr) (s : State), (encode (.jp nnn)).toNat = 0x1000 + nnn.toNat ∧
    ∃ t, exec (.jp nnn) s = .next t ∧ t.pc.toNat = nnn.toNat ∧ Ticked s t ∧ OnlyChanges s t [.pc, .timers]

/-- `2NNN` pushes the address after it and jumps; on a full stack it faults and pushes nothing (R82, R143; what the fault
leaves is D3, D4). -/
def Obligations.CallPushesAndJumps : Prop :=
  ∀ (nnn : Addr) (s : State),
    (s.sp.val < 16 → ∃ t, exec (.call nnn) s = .next t ∧ t.pc.toNat = nnn.toNat ∧ t.sp.val = s.sp.val + 1 ∧
      (∀ slot : Fin 16, t.stack[slot] = if slot.val = s.sp.val then s.pc + 2 else s.stack[slot]) ∧
      Ticked s t ∧ OnlyChanges s t [.pc, .stack, .timers]) ∧
    (s.sp.val = 16 → exec (.call nnn) s = .next (faulted s .stackOverflow (encode (.call nnn))))

/-- `00EE` pops the return address, clearing no slot; on an empty stack it faults (R80, R144; what the fault leaves is D3,
D4). -/
def Obligations.ReturnPopsPc : Prop :=
  ∀ s : State,
    (∀ slot : Fin 16, s.sp.val = slot.val + 1 → ∃ t, exec .ret s = .next t ∧ t.pc = s.stack[slot] ∧
      t.sp.val = slot.val ∧ t.stack = s.stack ∧ Ticked s t ∧ OnlyChanges s t [.pc, .stack, .timers]) ∧
    (s.sp.val = 0 → exec .ret s = .next (faulted s .stackUnderflow 0x00EE#16))

/-- The call and return round trip of R80: `2NNN` then `00EE` comes back to the address after the call, with `sp` at its
value before it. -/
def Obligations.CallThenReturn : Prop :=
  ∀ (nnn : Addr) (s : State), s.sp.val < 16 →
    ∃ t u, exec (.call nnn) s = .next t ∧ exec .ret t = .next u ∧ u.pc = s.pc + 2 ∧ u.sp = s.sp ∧
      OnlyChanges s u [.pc, .stack, .timers]

/-- `3XNN` and `4XNN` skip exactly one instruction when Vx equals, differs from NN (R83, R84, R89). -/
def Obligations.ImmediateSkips : Prop :=
  ∀ (x : Reg) (nn : Byte) (s : State),
    (encode (.seVxNn x nn)).toNat = numXNN 3 x nn ∧ (encode (.sneVxNn x nn)).toNat = numXNN 4 x nn ∧
    (∃ t, exec (.seVxNn x nn) s = .next t ∧ JumpCycle s t (if s.getV x = nn then s.pc + 4 else s.pc + 2)) ∧
    (∃ t, exec (.sneVxNn x nn) s = .next t ∧ JumpCycle s t (if s.getV x = nn then s.pc + 2 else s.pc + 4))

/-- `5XY0` and `9XY0` skip exactly one instruction when Vx equals, differs from Vy (R85, R86, R89). -/
def Obligations.RegisterSkips : Prop :=
  ∀ (x y : Reg) (s : State),
    (encode (.seVxVy x y)).toNat = numXYN 5 x y 0 ∧ (encode (.sneVxVy x y)).toNat = numXYN 9 x y 0 ∧
    (∃ t, exec (.seVxVy x y) s = .next t ∧ JumpCycle s t (if s.getV x = s.getV y then s.pc + 4 else s.pc + 2)) ∧
    (∃ t, exec (.sneVxVy x y) s = .next t ∧ JumpCycle s t (if s.getV x = s.getV y then s.pc + 2 else s.pc + 4))

/-- `BNNN` jumps to NNN + V0, with no wrap, and leaves `I` alone (R87; the destination is the spec's decision D2, log 5). -/
def Obligations.JumpOffsetSetsPc : Prop :=
  ∀ (nnn : Addr) (s : State), ∃ t, exec (.jpV0 nnn) s = .next t ∧ t.pc.toNat = nnn.toNat + (s.getV 0).toNat ∧
    Ticked s t ∧ OnlyChanges s t [.pc, .timers]

/-- A jump to itself runs for ever without halting the core, and each cycle changes the timers only (R81, R186: the spec's
suggested stop, D21). -/
def Obligations.JumpToSelfNeverHalts : Prop :=
  ∀ (s : State) (nnn : Addr), s.halted = false → s.pc.toNat = nnn.toNat → fetch s = some (encode (.jp nnn)) →
    (∃ t, step s = .next t ∧ OnlyChanges s t [.timers]) ∧ ∀ n, SafeFor n s

/-! ## Registers and arithmetic -/

/-- `6XNN` loads, `7XNN` adds an immediate, wrapping, no flag (R91, R92). -/
def Obligations.LoadAndAddImmediate : Prop :=
  ∀ (x : Reg) (nn : Byte) (s : State),
    (encode (.ldVxNn x nn)).toNat = numXNN 6 x nn ∧ (encode (.addVxNn x nn)).toNat = numXNN 7 x nn ∧
    (∃ t, exec (.ldVxNn x nn) s = .next t ∧ t.getV x = nn ∧ RegsBut s t x ∧ RegisterCycle s t) ∧
    (∃ t, exec (.addVxNn x nn) s = .next t ∧ (t.getV x).toNat = ((s.getV x).toNat + nn.toNat) % 256 ∧
      RegsBut s t x ∧ RegisterCycle s t)

/-- `8XY0` to `8XY3`: move, or, and, exclusive or, bit by bit, no flag (R93 to R96). -/
def Obligations.MoveAndLogic : Prop :=
  ∀ (x y : Reg) (s : State),
    (encode (.ldVxVy x y)).toNat = numXYN 8 x y 0 ∧ (encode (.orVxVy x y)).toNat = numXYN 8 x y 1 ∧
    (encode (.andVxVy x y)).toNat = numXYN 8 x y 2 ∧ (encode (.xorVxVy x y)).toNat = numXYN 8 x y 3 ∧
    (∃ t, exec (.ldVxVy x y) s = .next t ∧ t.getV x = s.getV y ∧ RegsBut s t x ∧ RegisterCycle s t) ∧
    (∃ t, exec (.orVxVy x y) s = .next t ∧
      (∀ b, (t.getV x).getLsbD b = ((s.getV x).getLsbD b || (s.getV y).getLsbD b)) ∧
      RegsBut s t x ∧ RegisterCycle s t) ∧
    (∃ t, exec (.andVxVy x y) s = .next t ∧
      (∀ b, (t.getV x).getLsbD b = ((s.getV x).getLsbD b && (s.getV y).getLsbD b)) ∧
      RegsBut s t x ∧ RegisterCycle s t) ∧
    (∃ t, exec (.xorVxVy x y) s = .next t ∧
      (∀ b, (t.getV x).getLsbD b = ((s.getV x).getLsbD b ^^ (s.getV y).getLsbD b)) ∧
      RegsBut s t x ∧ RegisterCycle s t)

/-- `8XY4` adds, wrapping, and VF is the carry-out, written last: with X = 0xF VF is the carry and the sum is lost (R97;
the order for X = 0xF is the spec's decision D8, log 6). -/
def Obligations.AddSetsCarry : Prop :=
  ∀ (x y : Reg) (s : State), ∃ t, exec (.addVxVy x y) s = .next t ∧
    (x ≠ VF → (t.getV x).toNat = ((s.getV x).toNat + (s.getV y).toNat) % 256) ∧
    t.getV VF = (if (s.getV x).toNat + (s.getV y).toNat ≥ 256 then 1 else 0) ∧
    RegsButFlag s t x ∧ RegisterCycle s t

/-- `8XY5` and `8XY7` subtract, wrapping, into Vx, and VF is 1 when there is no borrow, written last: with X = 0xF VF is
the flag (R98, R100; the order for X = 0xF is the spec's decision D8, log 6). -/
def Obligations.SubtractSetsNoBorrow : Prop :=
  ∀ (x y : Reg) (s : State),
    (∃ t, exec (.sub x y) s = .next t ∧
      (x ≠ VF → ((t.getV x).toNat + (s.getV y).toNat) % 256 = (s.getV x).toNat) ∧
      t.getV VF = (if (s.getV y).toNat ≤ (s.getV x).toNat then 1 else 0) ∧
      RegsButFlag s t x ∧ RegisterCycle s t) ∧
    (∃ t, exec (.subn x y) s = .next t ∧
      (x ≠ VF → ((t.getV x).toNat + (s.getV x).toNat) % 256 = (s.getV y).toNat) ∧
      t.getV VF = (if (s.getV x).toNat ≤ (s.getV y).toNat then 1 else 0) ∧
      RegsButFlag s t x ∧ RegisterCycle s t)

/-- `8XY6` and `8XYE` shift Vx by one, Vy is not read, and VF is the bit shifted out, written first: with X = 0xF the shift
acts on the flag (R99, R101; the case X = 0xF is the spec's decision D8, log 6). -/
def Obligations.ShiftsSetBitShiftedOut : Prop :=
  ∀ (x y : Reg) (s : State),
    (∃ t, exec (.shr x y) s = .next t ∧
      (x ≠ VF → (t.getV x).toNat = (s.getV x).toNat / 2 ∧ (t.getV VF).toNat = (s.getV x).toNat % 2) ∧
      (x = VF → t.getV VF = 0) ∧ RegsButFlag s t x ∧ RegisterCycle s t) ∧
    (∃ t, exec (.shl x y) s = .next t ∧
      (x ≠ VF → (t.getV x).toNat = (s.getV x).toNat * 2 % 256 ∧ (t.getV VF).toNat = (s.getV x).toNat / 128) ∧
      (x = VF → (t.getV VF).toNat = (s.getV x).toNat / 128 * 2) ∧ RegsButFlag s t x ∧ RegisterCycle s t)

/-- `CXNN` writes the random byte AND NN, for every value of the draw counter, and consumes one draw (R102, R103; the
counter is the model's own, log 1). -/
def Obligations.RandomByteIsMasked : Prop :=
  ∀ (x : Reg) (nn : Byte) (s : State), (encode (.rnd x nn)).toNat = numXNN 0xC x nn ∧
    ∃ t, exec (.rnd x nn) s = .next t ∧
      (∀ b, (t.getV x).getLsbD b = ((Config.rnd s.draws).getLsbD b && nn.getLsbD b)) ∧
      RegsBut s t x ∧ t.draws = s.draws + 1 ∧ t.pc = s.pc + 2 ∧ Ticked s t ∧
      OnlyChanges s t [.regs, .pc, .timers, .draws]

/-! ## Index register and memory -/

/-- `ANNN` loads the index register with the zero-extended address (R110). -/
def Obligations.LoadIndex : Prop :=
  ∀ (nnn : Addr) (s : State), (encode (.ldINnn nnn)).toNat = 0xA000 + nnn.toNat ∧
    ∃ t, exec (.ldINnn nnn) s = .next t ∧ t.i.toNat = nnn.toNat ∧ t.pc = s.pc + 2 ∧ Ticked s t ∧
      OnlyChanges s t [.index, .pc, .timers]

/-- `FX1E` adds to the index register, wrapping at 16 bits, and `FX29` sets it to 5 times the whole of Vx; neither writes VF
(R111, R112; the widths are the spec's decisions D15, D14, log 14). -/
def Obligations.IndexArithmetic : Prop :=
  ∀ (x : Reg) (s : State),
    (∃ t, exec (.addIVx x) s = .next t ∧ t.i.toNat = (s.i.toNat + (s.getV x).toNat) % 65536 ∧ t.pc = s.pc + 2 ∧
      Ticked s t ∧ OnlyChanges s t [.index, .pc, .timers]) ∧
    (∃ t, exec (.ldFVx x) s = .next t ∧ t.i.toNat = 5 * (s.getV x).toNat ∧ t.pc = s.pc + 2 ∧
      Ticked s t ∧ OnlyChanges s t [.index, .pc, .timers])

/-- `FX33` stores the hundreds, tens and units of Vx at `I`, `I + 1`, `I + 2` and nothing else; a range that leaves memory
faults with no effect (R113, R116; the bound is the spec's decision D5, `I` unchanged D16). -/
def Obligations.StoreDecimalDigits : Prop :=
  ∀ (x : Reg) (s : State), s.mem.wf →
    (s.i.toNat + 2 ≤ 0xFFF → ∃ t, exec (.ldBVx x) s = .next t ∧
      (t.mem.read (s.dataAddr 0)).toNat = (s.getV x).toNat / 100 ∧
      (t.mem.read (s.dataAddr 1)).toNat = (s.getV x).toNat / 10 % 10 ∧
      (t.mem.read (s.dataAddr 2)).toNat = (s.getV x).toNat % 10 ∧
      (∀ a, (∀ k < 3, a ≠ s.dataAddr k) → t.mem.read a = s.mem.read a) ∧
      t.pc = s.pc + 2 ∧ Ticked s t ∧ OnlyChanges s t [.memory, .pc, .timers]) ∧
    (0xFFF < s.i.toNat + 2 → exec (.ldBVx x) s = .next (faulted s .addressOutOfRange s.i))

/-- `FX55` stores V0 to Vx at `I` upward and nothing else; a range that leaves memory faults with no effect
(R114, R116; the bound is the spec's decision D5, `I` unchanged D16). -/
def Obligations.StoreRegisters : Prop :=
  ∀ (x : Reg) (s : State), s.mem.wf →
    (s.i.toNat + x.val ≤ 0xFFF → ∃ t, exec (.ldMiVx x) s = .next t ∧
      (∀ r : Reg, r.val ≤ x.val → t.mem.read (s.dataAddr r.val) = s.getV r) ∧
      (∀ a, (∀ k ≤ x.val, a ≠ s.dataAddr k) → t.mem.read a = s.mem.read a) ∧
      t.pc = s.pc + 2 ∧ Ticked s t ∧ OnlyChanges s t [.memory, .pc, .timers]) ∧
    (0xFFF < s.i.toNat + x.val → exec (.ldMiVx x) s = .next (faulted s .addressOutOfRange s.i))

/-- `FX65` loads V0 to Vx from `I` upward and no other register; a range that leaves memory faults with no effect
(R115, R116; the bound is the spec's decision D5, `I` unchanged D16). -/
def Obligations.LoadRegisters : Prop :=
  ∀ (x : Reg) (s : State),
    (s.i.toNat + x.val ≤ 0xFFF → ∃ t, exec (.ldVxMi x) s = .next t ∧
      (∀ r : Reg, t.getV r = if r.val ≤ x.val then s.mem.read (s.dataAddr r.val) else s.getV r) ∧
      RegisterCycle s t) ∧
    (0xFFF < s.i.toNat + x.val → exec (.ldVxMi x) s = .next (faulted s .addressOutOfRange s.i))

/-- Two canonical memories that read alike are equal (log 20: the memory of the model is determined by its bytes). -/
def Obligations.CanonicalMemoryIsUnique : Prop :=
  ∀ m m' : Memory, m.wf → m'.wf → (∀ a, m.read a = m'.read a) → m = m'

/-- A store is seen by the very next fetch (R45): bytes that `FX55` writes at the next instruction's address are the
instruction the next cycle runs. -/
def Obligations.StoredCodeRunsNext : Prop :=
  ∀ (s t : State) (x : Reg) (j : Instr), s.mem.wf → s.halted = false → 1 ≤ x.val → s.i = s.pc + 2 →
    s.i.toNat + x.val ≤ 0xFFF → decodeWord (s.getV 0 ++ s.getV 1) = .ok j →
    exec (.ldMiVx x) s = .next t → step t = exec j t

/-! ## Display -/

/-- `00E0` turns every pixel off and writes no register (R122, R123). -/
def Obligations.ClearTurnsEveryPixelOff : Prop :=
  ∀ s : State, encode .cls = 0x00E0#16 ∧ ∃ t, exec .cls s = .next t ∧ (∀ x y, t.fb.pixel x y = false) ∧
    t.pc = s.pc + 2 ∧ Ticked s t ∧ OnlyChanges s t [.display, .pc, .timers]

/-- `DXYN` toggles exactly the pixels a sprite bit of 1 lands on, wrapping at both edges, and VF is 1 exactly when one of
them was on; with N = 0 it draws nothing and cannot fault; a sprite that leaves memory faults with no effect
(R121, R124; the bound is the spec's decision D5, `I` unchanged D16). -/
def Obligations.DrawTogglesSpritePixels : Prop :=
  ∀ (x y : Reg) (n : Nibble) (s : State),
    (n.toNat = 0 ∨ s.i.toNat + n.toNat - 1 ≤ 0xFFF → ∃ t, exec (.drw x y n) s = .next t ∧
      (∀ cx < 64, ∀ cy < 32, (t.fb.pixel cx cy ≠ s.fb.pixel cx cy ↔ SpriteCovers s x y n.toNat cx cy)) ∧
      (t.getV VF = 0 ∨ t.getV VF = 1) ∧
      (t.getV VF = 1 ↔ ∃ cx < 64, ∃ cy < 32, s.fb.pixel cx cy = true ∧ SpriteCovers s x y n.toNat cx cy) ∧
      RegsBut s t VF ∧ t.pc = s.pc + 2 ∧ Ticked s t ∧ OnlyChanges s t [.regs, .display, .pc, .timers]) ∧
    (0 < n.toNat → 0xFFF < s.i.toNat + n.toNat - 1 →
      exec (.drw x y n) s = .next (faulted s .addressOutOfRange s.i))

/-- Drawing a sprite twice at one place restores the framebuffer (R125). -/
def Obligations.DrawTwiceRestores : Prop :=
  (∀ (f : FrameBuffer) (x y : Nat) (bytes : List Byte), (draw (draw f x y bytes).fb x y bytes).fb = f) ∧
  (∀ (x y : Reg) (n : Nibble) (s t u : State), x ≠ VF → y ≠ VF → (n.toNat = 0 ∨ s.i.toNat + n.toNat - 1 ≤ 0xFFF) →
    exec (.drw x y n) s = .next t → exec (.drw x y n) t = .next u → u.fb = s.fb)

/-- Collision detection (R125): a sprite drawn over a region that is off sets no collision, and drawn again it does,
exactly when it has a bit of 1. -/
def Obligations.SecondDrawCollides : Prop :=
  ∀ (f : FrameBuffer) (x y : Nat) (bytes : List Byte), bytes.length ≤ 15 →
    (∀ j < bytes.length, ∀ i < 8, f.pixel (x + i) (y + j) = false) →
    (draw f x y bytes).collision = false ∧
    ((draw (draw f x y bytes).fb x y bytes).collision = true ↔ ∃ b ∈ bytes, b ≠ 0)

/-! ## Keys and timers -/

/-- `EX9E` and `EXA1` skip on the flag of the key whose index is the whole of Vx, and fault above 0x0F
(R130, R131, R147: the fault is the spec's decision D6). -/
def Obligations.KeySkips : Prop :=
  ∀ (x : Reg) (s : State),
    (∀ key : Reg, key.val = (s.getV x).toNat →
      (∃ t, exec (.skp x) s = .next t ∧ JumpCycle s t (if s.k[key] = true then s.pc + 4 else s.pc + 2)) ∧
      (∃ t, exec (.sknp x) s = .next t ∧ JumpCycle s t (if s.k[key] = true then s.pc + 2 else s.pc + 4))) ∧
    (0x0F < (s.getV x).toNat →
      exec (.skp x) s = .next (faulted s .keyIndexOutOfRange (encode (.skp x))) ∧
      exec (.sknp x) s = .next (faulted s .keyIndexOutOfRange (encode (.sknp x))))

/-- `FX0A` latches the lowest pressed key of 0x0 to 0xE; with none pressed it stays at its own address, changes no
register, and its cycle ticks the timers (R132; the scan bound is the spec's decision D7, log 4). -/
def Obligations.WaitForKey : Prop :=
  ∀ (x : Reg) (s : State),
    (∀ key : Reg, key.val ≤ 0xE → s.k[key] = true → (∀ lower : Reg, lower.val < key.val → s.k[lower] = false) →
      ∃ t, exec (.ldVxK x) s = .next t ∧ (t.getV x).toNat = key.val ∧ RegsBut s t x ∧ RegisterCycle s t) ∧
    ((∀ key : Reg, key.val ≤ 0xE → s.k[key] = false) →
      ∃ t, exec (.ldVxK x) s = .next t ∧ JumpCycle s t s.pc)

/-- `FX07` reads the delay timer before this cycle's tick (R133). -/
def Obligations.ReadDelayTimer : Prop :=
  ∀ (x : Reg) (s : State), (encode (.ldVxDt x)).toNat = numXNN 0xF x 0x07#8 ∧
    ∃ t, exec (.ldVxDt x) s = .next t ∧ t.getV x = s.dt ∧ RegsBut s t x ∧ RegisterCycle s t

/-- `FX15` and `FX18` set a timer, which this cycle's tick counts down at once; the other timer ticks as always
(R134, R135). -/
def Obligations.SetTimers : Prop :=
  ∀ (x : Reg) (s : State),
    (encode (.ldDtVx x)).toNat = numXNN 0xF x 0x15#8 ∧ (encode (.ldStVx x)).toNat = numXNN 0xF x 0x18#8 ∧
    (∃ t, exec (.ldDtVx x) s = .next t ∧ t.dt.toNat = (s.getV x).toNat - 1 ∧ t.st.toNat = s.st.toNat - 1 ∧
      t.pc = s.pc + 2 ∧ OnlyChanges s t [.timers, .pc]) ∧
    (∃ t, exec (.ldStVx x) s = .next t ∧ t.st.toNat = (s.getV x).toNat - 1 ∧ t.dt.toNat = s.dt.toNat - 1 ∧
      t.pc = s.pc + 2 ∧ OnlyChanges s t [.timers, .pc])

/-! ## Reset and the host interface -/

/-- What the source's reset list gives, after `RESET` from any state and in the initial state (R170, R171; the font bytes
themselves are PRESUMED, log 3, and are not stated here). -/
def Obligations.ResetListHolds : Prop := ResetList State.reset ∧ ∀ s : State, ResetList s.hostReset

/-- What the spec adds to the reset list: registers, stack slots and 0x050 to 0x1FF zero, no fault recorded (R170: the
spec's decisions D9, D3, D4, log 7, log 8). -/
def Obligations.ResetAdditionsHold : Prop := ResetAdditions State.reset ∧ ∀ s : State, ResetAdditions s.hostReset

/-- `LOAD` of at most 3584 bytes copies them to 0x200 upward and changes nothing else; a longer image is a LoadError with
no effect on the core (R176, R177: that nothing is written is the spec's decision D17). -/
def Obligations.LoadCopiesImage : Prop :=
  ∀ (s : State) (bytes : List Byte), s.mem.wf →
    (bytes.length ≤ 3584 → (s.load bytes).2 = .ok ∧
      (∀ k < bytes.length, bytes[k]? = some ((s.load bytes).1.mem.read (0x200 + k))) ∧
      (∀ a, (∀ k < bytes.length, a ≠ 0x200 + k) → (s.load bytes).1.mem.read a = s.mem.read a) ∧
      OnlyChanges s (s.load bytes).1 [.memory]) ∧
    (3584 < bytes.length → s.load bytes = (s, .loadError))

/-- The key component (R136): press and release set and clear the one flag, the query reads it, and reset releases all
sixteen; nothing else changes. -/
def Obligations.KeyOperations : Prop :=
  ∀ (s : State) (key : Reg),
    (∀ q : Reg, (s.press key).pressed q = if q = key then true else s.pressed q) ∧
    (∀ q : Reg, (s.release key).pressed q = if q = key then false else s.pressed q) ∧
    (∀ q : Reg, s.hostReset.pressed q = false) ∧
    OnlyChanges s (s.press key) [.keys] ∧ OnlyChanges s (s.release key) [.keys]

/-- The host's reads (R158, R159, R160; the cause codes are the spec's decision D4): 2048 pixels, row-major; the sound
timer; the cause code of R141 and the information. -/
def Obligations.HostReads : Prop :=
  ∀ s : State,
    (∀ x < 64, ∀ y < 32, s.readFb[y * 64 + x]? = some (s.fb.pixel x y)) ∧
    s.readSt = s.st ∧ s.readFault.2 = s.fault.info ∧
    s.readFault.1.toNat = (match s.fault.cause with
      | .none => 0 | .unknownOpcode => 1 | .stackOverflow => 2 | .stackUnderflow => 3
      | .addressOutOfRange => 4 | .keyIndexOutOfRange => 5)
end

