-- ==== Sys2Proof/Laws/Decode.lean ====
section
/-! SUPPORT. The fields of a word and the words of the formats as numbers (30_encoding.md R52, R53), so that facts about
encodings become linear arithmetic. -/

namespace Sys2Proof

/-! ## Fields as numbers -/

theorem opField_toNat (w : Word) : (opField w).toNat = w.toNat / 4096 := by
  have := w.isLt
  simp [opField, BitVec.extractLsb'_toNat, Nat.shiftRight_eq_div_pow]
  omega

theorem xField_val (w : Word) : (xField w).val = w.toNat / 256 % 16 := by
  simp [xField, Nat.shiftRight_eq_div_pow]

theorem yField_val (w : Word) : (yField w).val = w.toNat / 16 % 16 := by
  simp [yField, Nat.shiftRight_eq_div_pow]

theorem nField_toNat (w : Word) : (nField w).toNat = w.toNat % 16 := by
  simp [nField, BitVec.extractLsb'_toNat]

theorem nnField_toNat (w : Word) : (nnField w).toNat = w.toNat % 256 := by
  simp [nnField, BitVec.extractLsb'_toNat]

theorem nnnField_toNat (w : Word) : (nnnField w).toNat = w.toNat % 4096 := by
  simp [nnnField, BitVec.extractLsb'_toNat]

theorem hiByte_toNat (w : Word) : (hiByte w).toNat = w.toNat / 256 := by
  have := w.isLt
  simp [hiByte, BitVec.extractLsb'_toNat, Nat.shiftRight_eq_div_pow]
  omega

theorem loByte_toNat (w : Word) : (loByte w).toNat = w.toNat % 256 := by
  simp [loByte, BitVec.extractLsb'_toNat]

/-! ## Words as numbers -/

/-- The number of a concatenation (R8: `a ++ b` has `a` in the high bits). -/
theorem append_toNat {m n : Nat} (a : BitVec m) (b : BitVec n) :
    (a ++ b).toNat = a.toNat * 2 ^ n + b.toNat := by
  rw [BitVec.toNat_append, ← Nat.shiftLeft_add_eq_or_of_lt b.isLt, Nat.shiftLeft_eq]

theorem regBits_toNat (r : Reg) : (regBits r).toNat = r.val := rfl

theorem formatNNN_toNat (op : Nibble) (nnn : Addr) :
    (formatNNN op nnn).toNat = op.toNat * 4096 + nnn.toNat := append_toNat op nnn

theorem formatXNN_toNat (op : Nibble) (x : Reg) (nn : Byte) :
    (formatXNN op x nn).toNat = op.toNat * 4096 + x.val * 256 + nn.toNat := by
  have outer : (formatXNN op x nn).toNat = (op ++ regBits x).toNat * 2 ^ 8 + nn.toNat := append_toNat _ nn
  rw [outer, append_toNat, regBits_toNat]
  omega

theorem formatXYN_toNat (op : Nibble) (x y : Reg) (n : Nibble) :
    (formatXYN op x y n).toNat = op.toNat * 4096 + x.val * 256 + y.val * 16 + n.toNat := by
  have outer : (formatXYN op x y n).toNat = (op ++ regBits x ++ regBits y).toNat * 2 ^ 4 + n.toNat := append_toNat _ n
  rw [outer, append_toNat, append_toNat, regBits_toNat, regBits_toNat]
  omega

theorem wordOfBytes_toNat (hi lo : Byte) : (wordOfBytes hi lo).toNat = hi.toNat * 256 + lo.toNat := append_toNat hi lo

/-- A word is its two bytes, the high byte at the lower address (R33). -/
theorem wordOfBytes_bytes (w : Word) : wordOfBytes (hiByte w) (loByte w) = w := by
  apply BitVec.eq_of_toNat_eq
  rw [wordOfBytes_toNat, hiByte_toNat, loByte_toNat]
  omega

/-! ## The fields of the words the formats build -/

@[simp] theorem opField_formatNNN (op : Nibble) (nnn : Addr) : opField (formatNNN op nnn) = op := by
  have := nnn.isLt
  exact BitVec.eq_of_toNat_eq (by rw [opField_toNat, formatNNN_toNat]; omega)

@[simp] theorem nnnField_formatNNN (op : Nibble) (nnn : Addr) : nnnField (formatNNN op nnn) = nnn := by
  have := nnn.isLt
  exact BitVec.eq_of_toNat_eq (by rw [nnnField_toNat, formatNNN_toNat]; omega)

@[simp] theorem opField_formatXNN (op : Nibble) (x : Reg) (nn : Byte) : opField (formatXNN op x nn) = op := by
  have := nn.isLt
  exact BitVec.eq_of_toNat_eq (by rw [opField_toNat, formatXNN_toNat]; omega)

@[simp] theorem xField_formatXNN (op : Nibble) (x : Reg) (nn : Byte) : xField (formatXNN op x nn) = x := by
  have := nn.isLt
  exact Fin.ext (by rw [xField_val, formatXNN_toNat]; omega)

@[simp] theorem nnField_formatXNN (op : Nibble) (x : Reg) (nn : Byte) : nnField (formatXNN op x nn) = nn := by
  have := nn.isLt
  exact BitVec.eq_of_toNat_eq (by rw [nnField_toNat, formatXNN_toNat]; omega)

@[simp] theorem opField_formatXYN (op : Nibble) (x y : Reg) (n : Nibble) : opField (formatXYN op x y n) = op := by
  have := n.isLt
  exact BitVec.eq_of_toNat_eq (by rw [opField_toNat, formatXYN_toNat]; omega)

@[simp] theorem xField_formatXYN (op : Nibble) (x y : Reg) (n : Nibble) : xField (formatXYN op x y n) = x := by
  have := n.isLt
  exact Fin.ext (by rw [xField_val, formatXYN_toNat]; omega)

@[simp] theorem yField_formatXYN (op : Nibble) (x y : Reg) (n : Nibble) : yField (formatXYN op x y n) = y := by
  have := n.isLt
  exact Fin.ext (by rw [yField_val, formatXYN_toNat]; omega)

@[simp] theorem nField_formatXYN (op : Nibble) (x y : Reg) (n : Nibble) : nField (formatXYN op x y n) = n := by
  have := n.isLt
  exact BitVec.eq_of_toNat_eq (by rw [nField_toNat, formatXYN_toNat]; omega)

/-! ## A word is the fields of its format -/

theorem formatNNN_fields (w : Word) : formatNNN (opField w) (nnnField w) = w := by
  apply BitVec.eq_of_toNat_eq
  rw [formatNNN_toNat, opField_toNat, nnnField_toNat]
  omega

theorem formatXNN_fields (w : Word) : formatXNN (opField w) (xField w) (nnField w) = w := by
  apply BitVec.eq_of_toNat_eq
  rw [formatXNN_toNat, opField_toNat, xField_val, nnField_toNat]
  omega

theorem formatXYN_fields (w : Word) : formatXYN (opField w) (xField w) (yField w) (nField w) = w := by
  apply BitVec.eq_of_toNat_eq
  rw [formatXYN_toNat, opField_toNat, xField_val, yField_val, nField_toNat]
  omega

end Sys2Proof
end

