-- ==== Sys2Proof/Laws/Draw.lean ====
section
/-! SUPPORT. What the blit does (44_display.md R121): which pixels it toggles, and when it reports a collision. -/

namespace Sys2Proof.Machine

/-! ## Pixels -/

@[simp] theorem FrameBuffer.pixel_mod (f : FrameBuffer) (x y : Nat) : f.pixel (x % 64) (y % 32) = f.pixel x y := by
  simp [FrameBuffer.pixel]

/-- Pixels are addressed modulo 64 and 32 (R120). -/
theorem FrameBuffer.pixel_congr (f : FrameBuffer) {x y x' y' : Nat} (hx : x % 64 = x' % 64) (hy : y % 32 = y' % 32) :
    f.pixel x y = f.pixel x' y' := by
  rw [← f.pixel_mod x y, hx, hy, f.pixel_mod]

/-- A pixel written is read back, and every other pixel is as before. -/
theorem FrameBuffer.pixel_setPixel (f : FrameBuffer) (x y cx cy : Nat) (b : Bool) :
    (f.setPixel x y b).pixel cx cy = if cx % 64 = x % 64 ∧ cy % 32 = y % 32 then b else f.pixel cx cy := by
  unfold FrameBuffer.setPixel FrameBuffer.pixel
  by_cases hy : y % 32 = cy % 32
  · by_cases hx : x % 64 = cx % 64
    · simp [hx, hy]
    · simp [hx, hy, Ne.symm hx]
  · simp [hy, Ne.symm hy]

/-- Framebuffers with equal pixels are equal. -/
theorem FrameBuffer.ext_pixel {f g : FrameBuffer} (h : ∀ x < 64, ∀ y < 32, f.pixel x y = g.pixel x y) : f = g := by
  refine Vector.ext fun y hy => Vector.ext fun x hx => ?_
  simpa [FrameBuffer.pixel, Nat.mod_eq_of_lt hx, Nat.mod_eq_of_lt hy] using h x hx y hy

@[simp] theorem FrameBuffer.pixel_blank (x y : Nat) : FrameBuffer.blank.pixel x y = false := by
  simp [FrameBuffer.pixel, FrameBuffer.blank]

/-! ## The bits of a row -/

/-- A bit lands on a pixel when both coordinates agree modulo the size of the display. -/
def lands (x y cx cy : Nat) : Bool := decide (cx % 64 = x % 64) && decide (cy % 32 = y % 32)

/-- Whether the bits of a row toggle a pixel, counting an even number of hits as none. -/
def rowToggles (x y cx cy : Nat) : List Bool → Bool
  | [] => false
  | b :: bs => (lands x y cx cy && b) ^^ rowToggles (x + 1) y cx cy bs

/-- Whether the bytes of a sprite toggle a pixel. -/
def spriteToggles (x y cx cy : Nat) : List Byte → Bool
  | [] => false
  | b :: bs => rowToggles x y cx cy (spriteBits b) ^^ spriteToggles x (y + 1) cx cy bs

theorem Blit.toggle_pixel (d : Blit) (x y cx cy : Nat) (b : Bool) :
    (d.toggle x y b).fb.pixel cx cy = (d.fb.pixel cx cy ^^ (lands x y cx cy && b)) := by
  unfold Blit.toggle lands
  rw [FrameBuffer.pixel_setPixel]
  by_cases h : cx % 64 = x % 64 ∧ cy % 32 = y % 32
  · simp [h, d.fb.pixel_congr h.1 h.2]
  · rw [if_neg h]
    have : (decide (cx % 64 = x % 64) && decide (cy % 32 = y % 32)) = false := by simpa using h
    simp [this]

theorem Blit.bits_pixel (d : Blit) (x y cx cy : Nat) (bs : List Bool) :
    (d.bits x y bs).fb.pixel cx cy = (d.fb.pixel cx cy ^^ rowToggles x y cx cy bs) := by
  induction bs generalizing d x with
  | nil => simp [Blit.bits, rowToggles]
  | cons b bs ih => rw [Blit.bits, ih, Blit.toggle_pixel, rowToggles, Bool.xor_assoc]

theorem Blit.rows_pixel (d : Blit) (x y cx cy : Nat) (bytes : List Byte) :
    (d.rows x y bytes).fb.pixel cx cy = (d.fb.pixel cx cy ^^ spriteToggles x y cx cy bytes) := by
  induction bytes generalizing d y with
  | nil => simp [Blit.rows, spriteToggles]
  | cons b bs ih => rw [Blit.rows, ih, Blit.bits_pixel, spriteToggles, Bool.xor_assoc]

/-- The blit XORs into every pixel a bit that does not depend on the framebuffer (R121). -/
theorem draw_pixel (f : FrameBuffer) (x y cx cy : Nat) (bytes : List Byte) :
    (draw f x y bytes).fb.pixel cx cy = (f.pixel cx cy ^^ spriteToggles x y cx cy bytes) :=
  Blit.rows_pixel _ x y cx cy bytes

/-- The bits of a sprite byte, most significant first (R121). -/
theorem getElem?_spriteBits (b : Byte) (i : Nat) :
    (spriteBits b)[i]? = if i < 8 then some (b.getLsbD (7 - i)) else none := by
  unfold spriteBits
  split
  · next h => interval_cases i <;> rfl
  · next h => exact List.getElem?_eq_none (by simp; omega)

/-- With at most 64 bits no two bits of a row land on one pixel (R121 (e)). -/
theorem rowToggles_eq_true {x y cx cy : Nat} {bs : List Bool} (h : bs.length ≤ 64) :
    rowToggles x y cx cy bs = true ↔ ∃ i, bs[i]? = some true ∧ lands (x + i) y cx cy = true := by
  induction bs generalizing x with
  | nil => simp [rowToggles]
  | cons b bs ih =>
    have hlen : bs.length < 64 := by simpa using h
    rw [rowToggles]
    have tail : (∃ i, bs[i]? = some true ∧ lands (x + 1 + i) y cx cy = true) →
        lands x y cx cy = false := by
      rintro ⟨i, hi, hl⟩
      have : i < bs.length := (List.getElem?_eq_some_iff.mp hi).1
      simp only [lands, Bool.and_eq_true, decide_eq_true_eq] at hl
      simp only [lands, Bool.and_eq_false_iff, decide_eq_false_iff_not]
      left; omega
    constructor
    · intro ht
      cases hh : (lands x y cx cy && b) with
      | true =>
        simp only [Bool.and_eq_true] at hh
        exact ⟨0, by simp [hh.2], by simpa using hh.1⟩
      | false =>
        rw [hh, Bool.false_xor] at ht
        obtain ⟨i, hi, hl⟩ := (ih (by omega)).mp ht
        exact ⟨i + 1, by simpa using hi, by simpa [Nat.add_assoc, Nat.add_comm 1] using hl⟩
    · rintro ⟨i, hi, hl⟩
      cases i with
      | zero =>
        have hb : b = true := by simpa using hi
        have hl : lands x y cx cy = true := by simpa using hl
        have : rowToggles (x + 1) y cx cy bs = false := by
          by_contra hne
          have := tail ((ih (by omega)).mp (by simpa using hne))
          simp [hl] at this
        simp [hb, hl, this]
      | succ i =>
        have ht : ∃ i, bs[i]? = some true ∧ lands (x + 1 + i) y cx cy = true :=
          ⟨i, by simpa using hi, by simpa [Nat.add_assoc, Nat.add_comm 1] using hl⟩
        rw [tail ht, (ih (by omega)).mpr ht]
        rfl

/-- A bit of 1 of the sprite lands on the pixel (cx, cy) (R121). -/
def Covers (x y cx cy : Nat) (bytes : List Byte) : Prop :=
  ∃ j b, bytes[j]? = some b ∧ ∃ i < 8, b.getLsbD (7 - i) = true ∧ lands (x + i) (y + j) cx cy = true

theorem rowToggles_spriteBits {x y cx cy : Nat} {b : Byte} :
    rowToggles x y cx cy (spriteBits b) = true ↔
      ∃ i < 8, b.getLsbD (7 - i) = true ∧ lands (x + i) y cx cy = true := by
  rw [rowToggles_eq_true (by simp [spriteBits])]
  simp only [getElem?_spriteBits]
  constructor
  · rintro ⟨i, hi, hl⟩
    split at hi
    · next h => exact ⟨i, h, by simpa using hi, hl⟩
    · cases hi
  · rintro ⟨i, h, hb, hl⟩
    exact ⟨i, by simp [h, hb], hl⟩

/-- A sprite of no byte covers nothing; the rows of a longer one are its first byte's and the others'. -/
theorem covers_cons {x y cx cy : Nat} {b : Byte} {bs : List Byte} :
    Covers x y cx cy (b :: bs) ↔
      rowToggles x y cx cy (spriteBits b) = true ∨ Covers x (y + 1) cx cy bs := by
  rw [rowToggles_spriteBits]
  constructor
  · rintro ⟨j, b', hj, i, hi, hb, hl⟩
    cases j with
    | zero =>
      obtain rfl : b = b' := by simpa using hj
      exact .inl ⟨i, hi, hb, by simpa using hl⟩
    | succ j => exact .inr ⟨j, b', by simpa using hj, i, hi, hb, by simpa [Nat.add_assoc, Nat.add_comm 1] using hl⟩
  · rintro (⟨i, hi, hb, hl⟩ | ⟨j, b', hj, i, hi, hb, hl⟩)
    · exact ⟨0, b, by simp, i, hi, hb, by simpa using hl⟩
    · exact ⟨j + 1, b', by simpa using hj, i, hi, hb, by simpa [Nat.add_assoc, Nat.add_comm 1] using hl⟩

/-- A covered pixel of the later rows lies on another row than the first (R121 (e)). -/
theorem row_ne_of_covers {x y cx cy : Nat} {bs : List Byte} (h : bs.length < 32)
    (hc : Covers x (y + 1) cx cy bs) : cy % 32 ≠ y % 32 := by
  obtain ⟨j, b, hj, i, -, -, hl⟩ := hc
  have : j < bs.length := (List.getElem?_eq_some_iff.mp hj).1
  simp only [lands, Bool.and_eq_true, decide_eq_true_eq] at hl
  omega

/-- A row toggles pixels of its own row only. -/
theorem rowToggles_of_row_ne {x y cx cy : Nat} (h : cy % 32 ≠ y % 32) (bs : List Bool) :
    rowToggles x y cx cy bs = false := by
  induction bs generalizing x with
  | nil => rfl
  | cons b bs ih => simp [rowToggles, ih, lands, h]

/-- With at most 32 rows the blit toggles exactly the pixels a bit of 1 lands on (R121 (a), (e)). -/
theorem spriteToggles_eq_true {x y cx cy : Nat} {bytes : List Byte} (h : bytes.length ≤ 32) :
    spriteToggles x y cx cy bytes = true ↔ Covers x y cx cy bytes := by
  induction bytes generalizing y with
  | nil => simp [spriteToggles, Covers]
  | cons b bs ih =>
    have hlen : bs.length < 32 := by simpa using h
    rw [covers_cons, spriteToggles]
    by_cases hc : Covers x (y + 1) cx cy bs
    · have hrow := rowToggles_of_row_ne (x := x) (cx := cx) (row_ne_of_covers hlen hc) (spriteBits b)
      simp [hc, hrow, (ih (by omega)).mpr hc]
    · have : spriteToggles x (y + 1) cx cy bs = false := by
        simpa using mt (ih (by omega)).mp hc
      simp [hc, this]

/-! ## Collisions -/

theorem Blit.bits_collision (d : Blit) (x y : Nat) {bs : List Bool} (h : bs.length ≤ 64) :
    (d.bits x y bs).collision = true ↔
      d.collision = true ∨ ∃ i, bs[i]? = some true ∧ d.fb.pixel (x + i) y = true := by
  induction bs generalizing d x with
  | nil => simp [Blit.bits]
  | cons b bs ih =>
    have hlen : bs.length < 64 := by simpa using h
    have keep : ∀ i, i < bs.length → (d.toggle x y b).fb.pixel (x + 1 + i) y = d.fb.pixel (x + 1 + i) y := by
      intro i hi
      have : lands x y (x + 1 + i) y = false := by
        simp only [lands, Bool.and_eq_false_iff, decide_eq_false_iff_not]; left; omega
      simp [Blit.toggle_pixel, this]
    rw [Blit.bits, ih _ _ (by omega)]
    constructor
    · rintro (hc | ⟨i, hi, hp⟩)
      · simp only [Blit.toggle, Bool.or_eq_true, Bool.and_eq_true] at hc
        rcases hc with hc | ⟨hp, hb⟩
        · exact .inl hc
        · exact .inr ⟨0, by simp [hb], by simpa using hp⟩
      · rw [keep i (List.getElem?_eq_some_iff.mp hi).1] at hp
        exact .inr ⟨i + 1, by simpa using hi, by simpa [Nat.add_assoc, Nat.add_comm 1] using hp⟩
    · rintro (hc | ⟨i, hi, hp⟩)
      · exact .inl (by simp [Blit.toggle, hc])
      · cases i with
        | zero =>
          have hb : b = true := by simpa using hi
          have hp : d.fb.pixel x y = true := by simpa using hp
          exact .inl (by simp [Blit.toggle, hp, hb])
        | succ i =>
          have hi : bs[i]? = some true := by simpa using hi
          refine .inr ⟨i, hi, ?_⟩
          rw [keep i (List.getElem?_eq_some_iff.mp hi).1]
          simpa [Nat.add_assoc, Nat.add_comm 1] using hp

theorem Blit.rows_collision (d : Blit) (x y : Nat) {bytes : List Byte} (h : bytes.length ≤ 32) :
    (d.rows x y bytes).collision = true ↔
      d.collision = true ∨ ∃ cx cy, d.fb.pixel cx cy = true ∧ Covers x y cx cy bytes := by
  induction bytes generalizing d y with
  | nil => simp [Blit.rows, Covers]
  | cons b bs ih =>
    have hlen : bs.length < 32 := by simpa using h
    have keep : ∀ cx cy, Covers x (y + 1) cx cy bs →
        (d.bits x y (spriteBits b)).fb.pixel cx cy = d.fb.pixel cx cy := by
      intro cx cy hc
      simp [Blit.bits_pixel, rowToggles_of_row_ne (row_ne_of_covers hlen hc)]
    rw [Blit.rows, ih _ _ (by omega), Blit.bits_collision _ _ _ (by simp [spriteBits])]
    have first : (∃ i, (spriteBits b)[i]? = some true ∧ d.fb.pixel (x + i) y = true) ↔
        ∃ cx cy, d.fb.pixel cx cy = true ∧ rowToggles x y cx cy (spriteBits b) = true := by
      constructor
      · rintro ⟨i, hi, hp⟩
        refine ⟨x + i, y, hp, (rowToggles_eq_true (by simp [spriteBits])).mpr ⟨i, hi, by simp [lands]⟩⟩
      · rintro ⟨cx, cy, hp, ht⟩
        obtain ⟨i, hi, hl⟩ := (rowToggles_eq_true (by simp [spriteBits])).mp ht
        simp only [lands, Bool.and_eq_true, decide_eq_true_eq] at hl
        exact ⟨i, hi, by rw [← d.fb.pixel_congr hl.1 hl.2]; exact hp⟩
    rw [first]
    constructor
    · rintro ((hc | ⟨cx, cy, hp, ht⟩) | ⟨cx, cy, hp, hc⟩)
      · exact .inl hc
      · exact .inr ⟨cx, cy, hp, covers_cons.mpr (.inl ht)⟩
      · exact .inr ⟨cx, cy, by rwa [keep cx cy hc] at hp, covers_cons.mpr (.inr hc)⟩
    · rintro (hc | ⟨cx, cy, hp, hc⟩)
      · exact .inl (.inl hc)
      · rcases covers_cons.mp hc with ht | hc
        · exact .inl (.inr ⟨cx, cy, hp, ht⟩)
        · exact .inr ⟨cx, cy, by rwa [keep cx cy hc], hc⟩

/-- With at most 32 rows the blit reports a collision exactly when a bit of 1 lands on a pixel that was on
(R121 (b), (e)). -/
theorem draw_collision (f : FrameBuffer) (x y : Nat) {bytes : List Byte} (h : bytes.length ≤ 32) :
    (draw f x y bytes).collision = true ↔ ∃ cx cy, f.pixel cx cy = true ∧ Covers x y cx cy bytes := by
  simpa [draw] using Blit.rows_collision ⟨f, false⟩ x y h

end Sys2Proof.Machine
end

