-- ==== Sys2Proof/Laws/Memory.lean ====
section
/-! SUPPORT. What the memory operations do: reading after a write, and that every operation keeps the canonical form. -/

namespace Sys2Proof.Machine

/-- The memory of the reset state is canonical. -/
theorem State.reset_mem_wf : State.reset.mem.wf := ⟨List.Pairwise.nil, by simp [State.reset]⟩

/-- A canonical memory is canonical in front and behind. -/
theorem Memory.wf_cons {c : Host.Cell} {m : Memory} :
    Memory.wf (c :: m) ↔
      (∀ d ∈ m, c.1 < d.1) ∧ c.1 < Config.memSize ∧ c.2 ≠ resetByte c.1 ∧ Memory.wf m := by
  simp only [Memory.wf, List.pairwise_cons, List.forall_mem_cons]
  tauto

/-- An address that no cell lists reads as its reset content. -/
theorem Memory.read_of_unlisted {m : Memory} {a : Nat} (h : ∀ c ∈ m, c.1 ≠ a) : m.read a = resetByte a := by
  induction m with
  | nil => rfl
  | cons c m ih =>
    rw [List.forall_mem_cons] at h
    simp [Memory.read, h.1, ih h.2]

/-- Reading behind `put`: the byte put at its address, provided nothing behind lists it. -/
theorem Memory.read_put {m : Memory} {a : Nat} {b : Byte} (h : ∀ c ∈ m, c.1 ≠ a) (q : Nat) :
    (m.put a b).read q = if q = a then b else m.read q := by
  unfold Memory.put
  by_cases hb : b = resetByte a
  · rw [if_pos hb]
    split
    · next e => rw [e, Memory.read_of_unlisted h, hb]
    · rfl
  · rw [if_neg hb]
    by_cases e : a = q
    · simp [Memory.read, e]
    · simp [Memory.read, e, Ne.symm e]

/-- A byte written is read back, and every other address reads as before (R36, R37). -/
theorem Memory.read_write {m : Memory} (h : m.wf) (a : Nat) (b : Byte) (q : Nat) :
    (m.write a b).read q = if q = a then b else m.read q := by
  induction m with
  | nil => exact Memory.read_put (by simp) q
  | cons c m ih =>
    obtain ⟨hlt, -, -, hm⟩ := Memory.wf_cons.mp h
    unfold Memory.write
    split
    · next hca =>
      by_cases e : c.1 = q
      · have : q ≠ a := by omega
        simp [Memory.read, e, this]
      · simp [Memory.read, e, ih hm]
    · next hca =>
      split
      · next e =>
        rw [Memory.read_put (fun d hd => by have := hlt d hd; omega)]
        split
        · rfl
        · next hq => simp [Memory.read, show c.1 ≠ q by omega]
      · next e =>
        refine Memory.read_put (fun d hd => ?_) q
        rcases List.mem_cons.mp hd with rfl | hd
        · exact e
        · have := hlt d hd; omega

/-- The addresses a written memory lists: the old ones and the written one. -/
theorem Memory.mem_write {m : Memory} {a : Nat} {b : Byte} {d : Host.Cell} (hd : d ∈ m.write a b) :
    d ∈ m ∨ (d = (a, b) ∧ b ≠ resetByte a) := by
  induction m with
  | nil =>
    unfold Memory.write Memory.put at hd
    split at hd
    · exact .inl hd
    · exact .inr ⟨by simpa using hd, ‹_›⟩
  | cons c m ih =>
    unfold Memory.write Memory.put at hd
    repeat' split at hd
    · rcases List.mem_cons.mp hd with rfl | hd
      · exact .inl (List.mem_cons_self)
      · exact (ih hd).imp_left (List.mem_cons_of_mem _)
    · exact .inl (List.mem_cons_of_mem _ hd)
    · rcases List.mem_cons.mp hd with rfl | hd
      · exact .inr ⟨rfl, ‹_›⟩
      · exact .inl (List.mem_cons_of_mem _ hd)
    · exact .inl hd
    · rcases List.mem_cons.mp hd with rfl | hd
      · exact .inr ⟨rfl, ‹_›⟩
      · exact .inl hd

/-- A write keeps the canonical form (R37). -/
theorem Memory.wf_write {m : Memory} (h : m.wf) {a : Nat} (ha : a < Config.memSize) (b : Byte) :
    (m.write a b).wf := by
  induction m with
  | nil =>
    unfold Memory.write Memory.put
    split
    · exact h
    · exact Memory.wf_cons.mpr ⟨by simp, ha, ‹_›, h⟩
  | cons c m ih =>
    obtain ⟨hlt, hc, hcb, hm⟩ := Memory.wf_cons.mp h
    unfold Memory.write
    split
    · next hca =>
      refine Memory.wf_cons.mpr ⟨fun d hd => ?_, hc, hcb, ih hm⟩
      rcases Memory.mem_write hd with hd | ⟨rfl, -⟩
      · exact hlt d hd
      · exact hca
    · next hca =>
      unfold Memory.put
      split
      · next e =>
        split
        · exact hm
        · exact Memory.wf_cons.mpr ⟨fun d hd => e ▸ hlt d hd, ha, ‹_›, hm⟩
      · next e =>
        split
        · exact h
        · refine Memory.wf_cons.mpr ⟨fun d hd => ?_, ha, ‹_›, h⟩
          rcases List.mem_cons.mp hd with rfl | hd
          · simp only; omega
          · have := hlt d hd; simp only; omega

/-- Storing bytes keeps the canonical form, when they lie in memory (R37, R38). -/
theorem Memory.wf_storeBytes {m : Memory} (h : m.wf) {a : Nat} {bs : List Byte}
    (ha : InMemory a bs.length) : (m.storeBytes a bs).wf := by
  induction bs generalizing m a with
  | nil => exact h
  | cons b bs ih =>
    have ha : a + (bs.length + 1) ≤ Config.memSize := by simpa [InMemory] using ha
    refine ih (Memory.wf_write h (by omega) b) (.inr (by omega))

/-- Stored bytes are read back in order, and every other address reads as before (R37, R41). -/
theorem Memory.read_storeBytes {m : Memory} (h : m.wf) {a : Nat} {bs : List Byte} (ha : InMemory a bs.length)
    (q : Nat) : (m.storeBytes a bs).read q = if q < a then m.read q else (bs[q - a]?).getD (m.read q) := by
  induction bs generalizing m a with
  | nil => simp [Memory.storeBytes]
  | cons b bs ih =>
    have hb : a + (bs.length + 1) ≤ Config.memSize := by simpa [InMemory] using ha
    rw [Memory.storeBytes, ih (Memory.wf_write h (by omega) b) (.inr (by omega)), Memory.read_write h]
    rcases Nat.lt_trichotomy q a with hq | rfl | hq
    · simp [hq, show q < a + 1 by omega, show q ≠ a by omega]
    · simp
    · obtain ⟨k, rfl⟩ : ∃ k, q = a + 1 + k := ⟨q - (a + 1), by omega⟩
      rw [if_neg (by omega), if_neg (by omega), if_neg (by omega), show a + 1 + k - a = k + 1 by omega,
        show a + 1 + k - (a + 1) = k by omega, List.getElem?_cons_succ]

/-- The bytes read from an address upward, one by one (R36, R41). -/
theorem Memory.getElem?_readBytes (m : Memory) (a n k : Nat) :
    (m.readBytes a n)[k]? = if k < n then some (m.read (a + k)) else none := by
  induction n generalizing a k with
  | zero => simp [Memory.readBytes]
  | succ n ih =>
    cases k with
    | zero => simp [Memory.readBytes]
    | succ k => simp [Memory.readBytes, ih, Nat.add_comm, Nat.add_left_comm]

@[simp] theorem Memory.length_readBytes (m : Memory) (a n : Nat) : (m.readBytes a n).length = n := by
  induction n generalizing a with
  | zero => rfl
  | succ n ih => simp [Memory.readBytes, ih]

/-- The load of an image keeps the canonical form, whether it succeeds or fails (R176, R177). -/
theorem State.load_mem_wf {s : State} (h : s.mem.wf) (bytes : List Byte) : (s.load bytes).1.mem.wf := by
  unfold State.load
  split
  · next hb =>
    refine Memory.wf_storeBytes h (.inr ?_)
    have : bytes.length ≤ 3584 := by simpa [imageWellFormed] using hb
    show 0x200 + bytes.length ≤ 4096
    omega
  · exact h

end Sys2Proof.Machine
end

