-- ==== Sys2Proof/Laws/State.lean ====
section
/-! SUPPORT. What each update of the state does to each field: one lemma per field per update, so that no later proof
unfolds an update. -/

namespace Sys2Proof.Machine

@[simp] theorem State.setV_v (s : State) (r : Reg) (b : Byte) : (s.setV r b).v = s.v.set r b := rfl
@[simp] theorem State.setV_pc (s : State) (r : Reg) (b : Byte) : (s.setV r b).pc = s.pc := rfl
@[simp] theorem State.setV_i (s : State) (r : Reg) (b : Byte) : (s.setV r b).i = s.i := rfl
@[simp] theorem State.setV_stack (s : State) (r : Reg) (b : Byte) : (s.setV r b).stack = s.stack := rfl
@[simp] theorem State.setV_sp (s : State) (r : Reg) (b : Byte) : (s.setV r b).sp = s.sp := rfl
@[simp] theorem State.setV_dt (s : State) (r : Reg) (b : Byte) : (s.setV r b).dt = s.dt := rfl
@[simp] theorem State.setV_st (s : State) (r : Reg) (b : Byte) : (s.setV r b).st = s.st := rfl
@[simp] theorem State.setV_fb (s : State) (r : Reg) (b : Byte) : (s.setV r b).fb = s.fb := rfl
@[simp] theorem State.setV_k (s : State) (r : Reg) (b : Byte) : (s.setV r b).k = s.k := rfl
@[simp] theorem State.setV_mem (s : State) (r : Reg) (b : Byte) : (s.setV r b).mem = s.mem := rfl
@[simp] theorem State.setV_fault (s : State) (r : Reg) (b : Byte) : (s.setV r b).fault = s.fault := rfl
@[simp] theorem State.setV_draws (s : State) (r : Reg) (b : Byte) : (s.setV r b).draws = s.draws := rfl

@[simp] theorem State.setPc_v (s : State) (w : Word) : (s.setPc w).v = s.v := rfl
@[simp] theorem State.setPc_pc (s : State) (w : Word) : (s.setPc w).pc = w := rfl
@[simp] theorem State.setPc_i (s : State) (w : Word) : (s.setPc w).i = s.i := rfl
@[simp] theorem State.setPc_stack (s : State) (w : Word) : (s.setPc w).stack = s.stack := rfl
@[simp] theorem State.setPc_sp (s : State) (w : Word) : (s.setPc w).sp = s.sp := rfl
@[simp] theorem State.setPc_dt (s : State) (w : Word) : (s.setPc w).dt = s.dt := rfl
@[simp] theorem State.setPc_st (s : State) (w : Word) : (s.setPc w).st = s.st := rfl
@[simp] theorem State.setPc_fb (s : State) (w : Word) : (s.setPc w).fb = s.fb := rfl
@[simp] theorem State.setPc_k (s : State) (w : Word) : (s.setPc w).k = s.k := rfl
@[simp] theorem State.setPc_mem (s : State) (w : Word) : (s.setPc w).mem = s.mem := rfl
@[simp] theorem State.setPc_fault (s : State) (w : Word) : (s.setPc w).fault = s.fault := rfl
@[simp] theorem State.setPc_draws (s : State) (w : Word) : (s.setPc w).draws = s.draws := rfl

@[simp] theorem State.setI_v (s : State) (w : Word) : (s.setI w).v = s.v := rfl
@[simp] theorem State.setI_pc (s : State) (w : Word) : (s.setI w).pc = s.pc := rfl
@[simp] theorem State.setI_i (s : State) (w : Word) : (s.setI w).i = w := rfl
@[simp] theorem State.setI_stack (s : State) (w : Word) : (s.setI w).stack = s.stack := rfl
@[simp] theorem State.setI_sp (s : State) (w : Word) : (s.setI w).sp = s.sp := rfl
@[simp] theorem State.setI_dt (s : State) (w : Word) : (s.setI w).dt = s.dt := rfl
@[simp] theorem State.setI_st (s : State) (w : Word) : (s.setI w).st = s.st := rfl
@[simp] theorem State.setI_fb (s : State) (w : Word) : (s.setI w).fb = s.fb := rfl
@[simp] theorem State.setI_k (s : State) (w : Word) : (s.setI w).k = s.k := rfl
@[simp] theorem State.setI_mem (s : State) (w : Word) : (s.setI w).mem = s.mem := rfl
@[simp] theorem State.setI_fault (s : State) (w : Word) : (s.setI w).fault = s.fault := rfl
@[simp] theorem State.setI_draws (s : State) (w : Word) : (s.setI w).draws = s.draws := rfl

@[simp] theorem State.setDt_v (s : State) (b : Byte) : (s.setDt b).v = s.v := rfl
@[simp] theorem State.setDt_pc (s : State) (b : Byte) : (s.setDt b).pc = s.pc := rfl
@[simp] theorem State.setDt_i (s : State) (b : Byte) : (s.setDt b).i = s.i := rfl
@[simp] theorem State.setDt_stack (s : State) (b : Byte) : (s.setDt b).stack = s.stack := rfl
@[simp] theorem State.setDt_sp (s : State) (b : Byte) : (s.setDt b).sp = s.sp := rfl
@[simp] theorem State.setDt_dt (s : State) (b : Byte) : (s.setDt b).dt = b := rfl
@[simp] theorem State.setDt_st (s : State) (b : Byte) : (s.setDt b).st = s.st := rfl
@[simp] theorem State.setDt_fb (s : State) (b : Byte) : (s.setDt b).fb = s.fb := rfl
@[simp] theorem State.setDt_k (s : State) (b : Byte) : (s.setDt b).k = s.k := rfl
@[simp] theorem State.setDt_mem (s : State) (b : Byte) : (s.setDt b).mem = s.mem := rfl
@[simp] theorem State.setDt_fault (s : State) (b : Byte) : (s.setDt b).fault = s.fault := rfl
@[simp] theorem State.setDt_draws (s : State) (b : Byte) : (s.setDt b).draws = s.draws := rfl

@[simp] theorem State.setSt_v (s : State) (b : Byte) : (s.setSt b).v = s.v := rfl
@[simp] theorem State.setSt_pc (s : State) (b : Byte) : (s.setSt b).pc = s.pc := rfl
@[simp] theorem State.setSt_i (s : State) (b : Byte) : (s.setSt b).i = s.i := rfl
@[simp] theorem State.setSt_stack (s : State) (b : Byte) : (s.setSt b).stack = s.stack := rfl
@[simp] theorem State.setSt_sp (s : State) (b : Byte) : (s.setSt b).sp = s.sp := rfl
@[simp] theorem State.setSt_dt (s : State) (b : Byte) : (s.setSt b).dt = s.dt := rfl
@[simp] theorem State.setSt_st (s : State) (b : Byte) : (s.setSt b).st = b := rfl
@[simp] theorem State.setSt_fb (s : State) (b : Byte) : (s.setSt b).fb = s.fb := rfl
@[simp] theorem State.setSt_k (s : State) (b : Byte) : (s.setSt b).k = s.k := rfl
@[simp] theorem State.setSt_mem (s : State) (b : Byte) : (s.setSt b).mem = s.mem := rfl
@[simp] theorem State.setSt_fault (s : State) (b : Byte) : (s.setSt b).fault = s.fault := rfl
@[simp] theorem State.setSt_draws (s : State) (b : Byte) : (s.setSt b).draws = s.draws := rfl

@[simp] theorem State.setFb_v (s : State) (f : FrameBuffer) : (s.setFb f).v = s.v := rfl
@[simp] theorem State.setFb_pc (s : State) (f : FrameBuffer) : (s.setFb f).pc = s.pc := rfl
@[simp] theorem State.setFb_i (s : State) (f : FrameBuffer) : (s.setFb f).i = s.i := rfl
@[simp] theorem State.setFb_stack (s : State) (f : FrameBuffer) : (s.setFb f).stack = s.stack := rfl
@[simp] theorem State.setFb_sp (s : State) (f : FrameBuffer) : (s.setFb f).sp = s.sp := rfl
@[simp] theorem State.setFb_dt (s : State) (f : FrameBuffer) : (s.setFb f).dt = s.dt := rfl
@[simp] theorem State.setFb_st (s : State) (f : FrameBuffer) : (s.setFb f).st = s.st := rfl
@[simp] theorem State.setFb_fb (s : State) (f : FrameBuffer) : (s.setFb f).fb = f := rfl
@[simp] theorem State.setFb_k (s : State) (f : FrameBuffer) : (s.setFb f).k = s.k := rfl
@[simp] theorem State.setFb_mem (s : State) (f : FrameBuffer) : (s.setFb f).mem = s.mem := rfl
@[simp] theorem State.setFb_fault (s : State) (f : FrameBuffer) : (s.setFb f).fault = s.fault := rfl
@[simp] theorem State.setFb_draws (s : State) (f : FrameBuffer) : (s.setFb f).draws = s.draws := rfl

@[simp] theorem State.setMem_v (s : State) (m : Memory) : (s.setMem m).v = s.v := rfl
@[simp] theorem State.setMem_pc (s : State) (m : Memory) : (s.setMem m).pc = s.pc := rfl
@[simp] theorem State.setMem_i (s : State) (m : Memory) : (s.setMem m).i = s.i := rfl
@[simp] theorem State.setMem_stack (s : State) (m : Memory) : (s.setMem m).stack = s.stack := rfl
@[simp] theorem State.setMem_sp (s : State) (m : Memory) : (s.setMem m).sp = s.sp := rfl
@[simp] theorem State.setMem_dt (s : State) (m : Memory) : (s.setMem m).dt = s.dt := rfl
@[simp] theorem State.setMem_st (s : State) (m : Memory) : (s.setMem m).st = s.st := rfl
@[simp] theorem State.setMem_fb (s : State) (m : Memory) : (s.setMem m).fb = s.fb := rfl
@[simp] theorem State.setMem_k (s : State) (m : Memory) : (s.setMem m).k = s.k := rfl
@[simp] theorem State.setMem_mem (s : State) (m : Memory) : (s.setMem m).mem = m := rfl
@[simp] theorem State.setMem_fault (s : State) (m : Memory) : (s.setMem m).fault = s.fault := rfl
@[simp] theorem State.setMem_draws (s : State) (m : Memory) : (s.setMem m).draws = s.draws := rfl

@[simp] theorem State.nextDraw_v (s : State) : (s.nextDraw).v = s.v := rfl
@[simp] theorem State.nextDraw_pc (s : State) : (s.nextDraw).pc = s.pc := rfl
@[simp] theorem State.nextDraw_i (s : State) : (s.nextDraw).i = s.i := rfl
@[simp] theorem State.nextDraw_stack (s : State) : (s.nextDraw).stack = s.stack := rfl
@[simp] theorem State.nextDraw_sp (s : State) : (s.nextDraw).sp = s.sp := rfl
@[simp] theorem State.nextDraw_dt (s : State) : (s.nextDraw).dt = s.dt := rfl
@[simp] theorem State.nextDraw_st (s : State) : (s.nextDraw).st = s.st := rfl
@[simp] theorem State.nextDraw_fb (s : State) : (s.nextDraw).fb = s.fb := rfl
@[simp] theorem State.nextDraw_k (s : State) : (s.nextDraw).k = s.k := rfl
@[simp] theorem State.nextDraw_mem (s : State) : (s.nextDraw).mem = s.mem := rfl
@[simp] theorem State.nextDraw_fault (s : State) : (s.nextDraw).fault = s.fault := rfl
@[simp] theorem State.nextDraw_draws (s : State) : (s.nextDraw).draws = s.draws + 1 := rfl

@[simp] theorem State.push_v (s : State) (w : Word) : (s.push w).v = s.v := rfl
@[simp] theorem State.push_pc (s : State) (w : Word) : (s.push w).pc = s.pc := rfl
@[simp] theorem State.push_i (s : State) (w : Word) : (s.push w).i = s.i := rfl
@[simp] theorem State.push_stack (s : State) (w : Word) : (s.push w).stack = s.stack.setIfInBounds s.sp.val w := rfl
@[simp] theorem State.push_sp (s : State) (w : Word) : (s.push w).sp = ⟨min (s.sp.val + 1) 16, by omega⟩ := rfl
@[simp] theorem State.push_dt (s : State) (w : Word) : (s.push w).dt = s.dt := rfl
@[simp] theorem State.push_st (s : State) (w : Word) : (s.push w).st = s.st := rfl
@[simp] theorem State.push_fb (s : State) (w : Word) : (s.push w).fb = s.fb := rfl
@[simp] theorem State.push_k (s : State) (w : Word) : (s.push w).k = s.k := rfl
@[simp] theorem State.push_mem (s : State) (w : Word) : (s.push w).mem = s.mem := rfl
@[simp] theorem State.push_fault (s : State) (w : Word) : (s.push w).fault = s.fault := rfl
@[simp] theorem State.push_draws (s : State) (w : Word) : (s.push w).draws = s.draws := rfl

@[simp] theorem State.popPc_v (s : State) : (s.popPc).v = s.v := rfl
@[simp] theorem State.popPc_pc (s : State) : (s.popPc).pc = s.stack[s.sp.val - 1] := rfl
@[simp] theorem State.popPc_i (s : State) : (s.popPc).i = s.i := rfl
@[simp] theorem State.popPc_stack (s : State) : (s.popPc).stack = s.stack := rfl
@[simp] theorem State.popPc_sp (s : State) : (s.popPc).sp = ⟨s.sp.val - 1, by omega⟩ := rfl
@[simp] theorem State.popPc_dt (s : State) : (s.popPc).dt = s.dt := rfl
@[simp] theorem State.popPc_st (s : State) : (s.popPc).st = s.st := rfl
@[simp] theorem State.popPc_fb (s : State) : (s.popPc).fb = s.fb := rfl
@[simp] theorem State.popPc_k (s : State) : (s.popPc).k = s.k := rfl
@[simp] theorem State.popPc_mem (s : State) : (s.popPc).mem = s.mem := rfl
@[simp] theorem State.popPc_fault (s : State) : (s.popPc).fault = s.fault := rfl
@[simp] theorem State.popPc_draws (s : State) : (s.popPc).draws = s.draws := rfl

@[simp] theorem State.setFlag_v (s : State) (c : Bool) : (s.setFlag c).v = s.v.set VF (flagByte c) := rfl
@[simp] theorem State.setFlag_pc (s : State) (c : Bool) : (s.setFlag c).pc = s.pc := rfl
@[simp] theorem State.setFlag_i (s : State) (c : Bool) : (s.setFlag c).i = s.i := rfl
@[simp] theorem State.setFlag_stack (s : State) (c : Bool) : (s.setFlag c).stack = s.stack := rfl
@[simp] theorem State.setFlag_sp (s : State) (c : Bool) : (s.setFlag c).sp = s.sp := rfl
@[simp] theorem State.setFlag_dt (s : State) (c : Bool) : (s.setFlag c).dt = s.dt := rfl
@[simp] theorem State.setFlag_st (s : State) (c : Bool) : (s.setFlag c).st = s.st := rfl
@[simp] theorem State.setFlag_fb (s : State) (c : Bool) : (s.setFlag c).fb = s.fb := rfl
@[simp] theorem State.setFlag_k (s : State) (c : Bool) : (s.setFlag c).k = s.k := rfl
@[simp] theorem State.setFlag_mem (s : State) (c : Bool) : (s.setFlag c).mem = s.mem := rfl
@[simp] theorem State.setFlag_fault (s : State) (c : Bool) : (s.setFlag c).fault = s.fault := rfl
@[simp] theorem State.setFlag_draws (s : State) (c : Bool) : (s.setFlag c).draws = s.draws := rfl

@[simp] theorem State.loadRegs_pc (s : State) (x : Reg) : (s.loadRegs x).pc = s.pc := rfl
@[simp] theorem State.loadRegs_i (s : State) (x : Reg) : (s.loadRegs x).i = s.i := rfl
@[simp] theorem State.loadRegs_stack (s : State) (x : Reg) : (s.loadRegs x).stack = s.stack := rfl
@[simp] theorem State.loadRegs_sp (s : State) (x : Reg) : (s.loadRegs x).sp = s.sp := rfl
@[simp] theorem State.loadRegs_dt (s : State) (x : Reg) : (s.loadRegs x).dt = s.dt := rfl
@[simp] theorem State.loadRegs_st (s : State) (x : Reg) : (s.loadRegs x).st = s.st := rfl
@[simp] theorem State.loadRegs_fb (s : State) (x : Reg) : (s.loadRegs x).fb = s.fb := rfl
@[simp] theorem State.loadRegs_k (s : State) (x : Reg) : (s.loadRegs x).k = s.k := rfl
@[simp] theorem State.loadRegs_mem (s : State) (x : Reg) : (s.loadRegs x).mem = s.mem := rfl
@[simp] theorem State.loadRegs_fault (s : State) (x : Reg) : (s.loadRegs x).fault = s.fault := rfl
@[simp] theorem State.loadRegs_draws (s : State) (x : Reg) : (s.loadRegs x).draws = s.draws := rfl

@[simp] theorem State.advance_v (s : State) : (s.advance).v = s.v := rfl
@[simp] theorem State.advance_pc (s : State) : (s.advance).pc = s.pc + 2 := rfl
@[simp] theorem State.advance_i (s : State) : (s.advance).i = s.i := rfl
@[simp] theorem State.advance_stack (s : State) : (s.advance).stack = s.stack := rfl
@[simp] theorem State.advance_sp (s : State) : (s.advance).sp = s.sp := rfl
@[simp] theorem State.advance_dt (s : State) : (s.advance).dt = s.dt := rfl
@[simp] theorem State.advance_st (s : State) : (s.advance).st = s.st := rfl
@[simp] theorem State.advance_fb (s : State) : (s.advance).fb = s.fb := rfl
@[simp] theorem State.advance_k (s : State) : (s.advance).k = s.k := rfl
@[simp] theorem State.advance_mem (s : State) : (s.advance).mem = s.mem := rfl
@[simp] theorem State.advance_fault (s : State) : (s.advance).fault = s.fault := rfl
@[simp] theorem State.advance_draws (s : State) : (s.advance).draws = s.draws := rfl

@[simp] theorem State.tick_v (s : State) : (s.tick).v = s.v := rfl
@[simp] theorem State.tick_pc (s : State) : (s.tick).pc = s.pc := rfl
@[simp] theorem State.tick_i (s : State) : (s.tick).i = s.i := rfl
@[simp] theorem State.tick_stack (s : State) : (s.tick).stack = s.stack := rfl
@[simp] theorem State.tick_sp (s : State) : (s.tick).sp = s.sp := rfl
@[simp] theorem State.tick_dt (s : State) : (s.tick).dt = tickByte s.dt := rfl
@[simp] theorem State.tick_st (s : State) : (s.tick).st = tickByte s.st := rfl
@[simp] theorem State.tick_fb (s : State) : (s.tick).fb = s.fb := rfl
@[simp] theorem State.tick_k (s : State) : (s.tick).k = s.k := rfl
@[simp] theorem State.tick_mem (s : State) : (s.tick).mem = s.mem := rfl
@[simp] theorem State.tick_fault (s : State) : (s.tick).fault = s.fault := rfl
@[simp] theorem State.tick_draws (s : State) : (s.tick).draws = s.draws := rfl

@[simp] theorem State.skipIf_v (s : State) (c : Bool) : (s.skipIf c).v = s.v := by cases c <;> rfl
@[simp] theorem State.skipIf_pc (s : State) (c : Bool) : (s.skipIf c).pc = if c then s.pc + 2 else s.pc := by
  cases c <;> rfl
@[simp] theorem State.skipIf_i (s : State) (c : Bool) : (s.skipIf c).i = s.i := by cases c <;> rfl
@[simp] theorem State.skipIf_stack (s : State) (c : Bool) : (s.skipIf c).stack = s.stack := by cases c <;> rfl
@[simp] theorem State.skipIf_sp (s : State) (c : Bool) : (s.skipIf c).sp = s.sp := by cases c <;> rfl
@[simp] theorem State.skipIf_dt (s : State) (c : Bool) : (s.skipIf c).dt = s.dt := by cases c <;> rfl
@[simp] theorem State.skipIf_st (s : State) (c : Bool) : (s.skipIf c).st = s.st := by cases c <;> rfl
@[simp] theorem State.skipIf_fb (s : State) (c : Bool) : (s.skipIf c).fb = s.fb := by cases c <;> rfl
@[simp] theorem State.skipIf_k (s : State) (c : Bool) : (s.skipIf c).k = s.k := by cases c <;> rfl
@[simp] theorem State.skipIf_mem (s : State) (c : Bool) : (s.skipIf c).mem = s.mem := by cases c <;> rfl
@[simp] theorem State.skipIf_fault (s : State) (c : Bool) : (s.skipIf c).fault = s.fault := by cases c <;> rfl
@[simp] theorem State.skipIf_draws (s : State) (c : Bool) : (s.skipIf c).draws = s.draws := by cases c <;> rfl

/-! ## Reading a register after an update -/

@[simp] theorem State.getV_setV (s : State) (r q : Reg) (b : Byte) :
    (s.setV r b).getV q = if q = r then b else s.getV q := by
  simp only [State.getV, State.setV_v, Fin.getElem_fin, Vector.getElem_set, Fin.ext_iff]
  split <;> split <;> first | rfl | omega

@[simp] theorem State.getV_setFlag (s : State) (q : Reg) (c : Bool) :
    (s.setFlag c).getV q = if q = VF then flagByte c else s.getV q := State.getV_setV s VF q (flagByte c)

/-- `FX65` loads exactly V0 to Vx. -/
@[simp] theorem State.getV_loadRegs (s : State) (x q : Reg) :
    (s.loadRegs x).getV q = if q.val ≤ x.val then s.mem.read (s.dataAddr q.val) else s.getV q := by
  simp [State.getV, State.loadRegs]

@[simp] theorem State.getV_setPc (s : State) (w : Word) (q : Reg) : (s.setPc w).getV q = s.getV q := rfl
@[simp] theorem State.getV_setI (s : State) (w : Word) (q : Reg) : (s.setI w).getV q = s.getV q := rfl
@[simp] theorem State.getV_setDt (s : State) (b : Byte) (q : Reg) : (s.setDt b).getV q = s.getV q := rfl
@[simp] theorem State.getV_setSt (s : State) (b : Byte) (q : Reg) : (s.setSt b).getV q = s.getV q := rfl
@[simp] theorem State.getV_setFb (s : State) (f : FrameBuffer) (q : Reg) : (s.setFb f).getV q = s.getV q := rfl
@[simp] theorem State.getV_setMem (s : State) (m : Memory) (q : Reg) : (s.setMem m).getV q = s.getV q := rfl
@[simp] theorem State.getV_nextDraw (s : State) (q : Reg) : (s.nextDraw).getV q = s.getV q := rfl
@[simp] theorem State.getV_push (s : State) (w : Word) (q : Reg) : (s.push w).getV q = s.getV q := rfl
@[simp] theorem State.getV_popPc (s : State) (q : Reg) : (s.popPc).getV q = s.getV q := rfl
@[simp] theorem State.getV_advance (s : State) (q : Reg) : (s.advance).getV q = s.getV q := rfl
@[simp] theorem State.getV_tick (s : State) (q : Reg) : (s.tick).getV q = s.getV q := rfl
@[simp] theorem State.getV_skipIf (s : State) (c : Bool) (q : Reg) : (s.skipIf c).getV q = s.getV q := by
  cases c <;> rfl

/-- The data address depends on `I` alone. -/
theorem State.dataAddr_of_i {s t : State} (h : t.i = s.i) (k : Nat) : t.dataAddr k = s.dataAddr k := by
  simp [State.dataAddr, h]

/-! ## The tick -/

/-- One timer counts down, floored at zero (R75). -/
@[simp] theorem tickByte_toNat (t : Byte) : (tickByte t).toNat = t.toNat - 1 := by
  unfold tickByte
  split
  · next h => simp [h]
  · next h =>
    have : t.toNat ≠ 0 := fun e => h (BitVec.eq_of_toNat_eq (by simpa using e))
    have := t.isLt
    rw [BitVec.toNat_sub]
    simp
    omega

/-! ## The host operations -/

@[simp] theorem State.press_v (s : State) (key : Reg) : (s.press key).v = s.v := rfl
@[simp] theorem State.press_pc (s : State) (key : Reg) : (s.press key).pc = s.pc := rfl
@[simp] theorem State.press_i (s : State) (key : Reg) : (s.press key).i = s.i := rfl
@[simp] theorem State.press_stack (s : State) (key : Reg) : (s.press key).stack = s.stack := rfl
@[simp] theorem State.press_sp (s : State) (key : Reg) : (s.press key).sp = s.sp := rfl
@[simp] theorem State.press_dt (s : State) (key : Reg) : (s.press key).dt = s.dt := rfl
@[simp] theorem State.press_st (s : State) (key : Reg) : (s.press key).st = s.st := rfl
@[simp] theorem State.press_fb (s : State) (key : Reg) : (s.press key).fb = s.fb := rfl
@[simp] theorem State.press_k (s : State) (key : Reg) : (s.press key).k = s.k.set key true := rfl
@[simp] theorem State.press_mem (s : State) (key : Reg) : (s.press key).mem = s.mem := rfl
@[simp] theorem State.press_fault (s : State) (key : Reg) : (s.press key).fault = s.fault := rfl
@[simp] theorem State.press_draws (s : State) (key : Reg) : (s.press key).draws = s.draws := rfl

@[simp] theorem State.release_v (s : State) (key : Reg) : (s.release key).v = s.v := rfl
@[simp] theorem State.release_pc (s : State) (key : Reg) : (s.release key).pc = s.pc := rfl
@[simp] theorem State.release_i (s : State) (key : Reg) : (s.release key).i = s.i := rfl
@[simp] theorem State.release_stack (s : State) (key : Reg) : (s.release key).stack = s.stack := rfl
@[simp] theorem State.release_sp (s : State) (key : Reg) : (s.release key).sp = s.sp := rfl
@[simp] theorem State.release_dt (s : State) (key : Reg) : (s.release key).dt = s.dt := rfl
@[simp] theorem State.release_st (s : State) (key : Reg) : (s.release key).st = s.st := rfl
@[simp] theorem State.release_fb (s : State) (key : Reg) : (s.release key).fb = s.fb := rfl
@[simp] theorem State.release_k (s : State) (key : Reg) : (s.release key).k = s.k.set key false := rfl
@[simp] theorem State.release_mem (s : State) (key : Reg) : (s.release key).mem = s.mem := rfl
@[simp] theorem State.release_fault (s : State) (key : Reg) : (s.release key).fault = s.fault := rfl
@[simp] theorem State.release_draws (s : State) (key : Reg) : (s.release key).draws = s.draws := rfl

end Sys2Proof.Machine
end

