-- ==== Sys2Proof/Laws/Ops.lean ====
section
/-! SUPPORT. What the shared operations of the cycle can do: `retire`, `raise`, `accessing`, `keySkip`, the key scan, the
fetch, and the arithmetic of the flags. -/

namespace Sys2Proof.Machine

/-- A completed cycle is the instruction's effect on the advanced state, then the tick. -/
theorem retire_eq_next {s t : State} {effect : State → State} :
    retire s effect = .next t ↔ t = (effect s.advance).tick := by
  simp [retire, eq_comm]

/-- Fault entry answers the state with the latch written. -/
theorem raise_eq_next {s t : State} {c : FaultCause} {info : Word} :
    raise c info s = .next t ↔ t = { s with fault := ⟨c, info⟩ } := by
  simp [raise, eq_comm]

/-- An access through `I` either has its whole range in memory and completes, or faults with `I` (R38, R116). -/
theorem accessing_cases {s t : State} {n : Nat} {effect : State → State} (h : accessing s n effect = .next t) :
    (InMemory s.i.toNat n ∧ t = (effect s.advance).tick) ∨
    (¬ InMemory s.i.toNat n ∧ t = { s with fault := ⟨.addressOutOfRange, s.i⟩ }) := by
  unfold accessing at h
  split at h
  · exact .inl ⟨‹_›, retire_eq_next.mp h⟩
  · exact .inr ⟨‹_›, raise_eq_next.mp h⟩

/-- An access whose range lies in memory completes. -/
theorem accessing_of_inMemory {s : State} {n : Nat} (h : InMemory s.i.toNat n) (effect : State → State) :
    accessing s n effect = .next (effect s.advance).tick := if_pos h

/-- An access whose range leaves memory faults with no effect. -/
theorem accessing_of_not_inMemory {s : State} {n : Nat} (h : ¬ InMemory s.i.toNat n) (effect : State → State) :
    accessing s n effect = .next { s with fault := ⟨.addressOutOfRange, s.i⟩ } := if_neg h

/-- A key-conditional skip either reads the flag of a key in range and completes, or faults (R130, R131). -/
theorem keySkip_cases {self : Instr} {x : Reg} {wanted : Bool} {s t : State} (h : keySkip self x wanted s = .next t) :
    (∃ key : Reg, key.val = (s.getV x).toNat ∧ t = (s.advance.skipIf (s.k[key] == wanted)).tick) ∨
    (0x0F < (s.getV x).toNat ∧ t = { s with fault := ⟨.keyIndexOutOfRange, encode self⟩ }) := by
  unfold keySkip at h
  split at h
  · next hk => exact .inl ⟨⟨_, hk⟩, rfl, retire_eq_next.mp h⟩
  · next hk => exact .inr ⟨by omega, raise_eq_next.mp h⟩

/-- A key-conditional skip with a key in range completes (R130, R131). -/
theorem keySkip_of_key {x : Reg} {s : State} {key : Reg} (h : key.val = (s.getV x).toNat) (self : Instr)
    (wanted : Bool) : keySkip self x wanted s = .next (s.advance.skipIf (s.k[key] == wanted)).tick := by
  unfold keySkip
  rw [dif_pos (h ▸ key.isLt)]
  simp [retire, h]

/-- A key-conditional skip with a register above 0x0F faults with no effect (R147). -/
theorem keySkip_of_out_of_range {x : Reg} {s : State} (h : 0x0F < (s.getV x).toNat) (self : Instr) (wanted : Bool) :
    keySkip self x wanted s = .next { s with fault := ⟨.keyIndexOutOfRange, encode self⟩ } := by
  unfold keySkip
  rw [dif_neg (by omega)]
  rfl

/-- The scan finds exactly the lowest pressed key of 0x0 to `waitKeyLast` (R132). -/
theorem Keys.lowest_eq_some {keys : Keys} {key : Reg} :
    keys.lowest = some key ↔
      key.val ≤ waitKeyLast ∧ keys[key] = true ∧ ∀ lower : Reg, lower.val < key.val → keys[lower] = false := by
  unfold Keys.lowest
  constructor
  · intro h
    obtain ⟨hp, as, bs, hsplit, hbefore⟩ := List.find?_eq_some_iff_append.mp h
    have hp : key.val ≤ waitKeyLast ∧ keys[key] = true := by simpa using hp
    refine ⟨hp.1, hp.2, fun lower hlt => ?_⟩
    have hsorted : (as ++ key :: bs).Pairwise (· < ·) := hsplit ▸ List.pairwise_lt_finRange 16
    have hmem : lower ∈ as ++ key :: bs := hsplit ▸ List.mem_finRange lower
    rcases List.mem_append.mp hmem with hin | hin
    · have hl : lower.val ≤ waitKeyLast := Nat.le_trans (Nat.le_of_lt hlt) hp.1
      have := hbefore lower hin
      simpa [hl] using this
    · exfalso
      rcases List.mem_cons.mp hin with rfl | hin
      · exact Nat.lt_irrefl _ hlt
      · have := (List.pairwise_cons.mp (List.pairwise_append.mp hsorted).2.1).1 lower hin
        exact absurd (Nat.lt_trans hlt this) (Nat.lt_irrefl _)
  · rintro ⟨hle, hon, hlow⟩
    cases hf : (List.finRange 16).find? (fun k => decide (k.val ≤ waitKeyLast) && keys[k]) with
    | none =>
      have := List.find?_eq_none.mp hf key (List.mem_finRange key)
      simp [hle] at this
      simp [this] at hon
    | some q =>
      have hq : q.val ≤ waitKeyLast ∧ keys[q] = true := by simpa using List.find?_some hf
      obtain ⟨-, as, bs, hsplit, hbefore⟩ := List.find?_eq_some_iff_append.mp hf
      have hmem : key ∈ as ++ q :: bs := hsplit ▸ List.mem_finRange key
      rcases List.mem_append.mp hmem with hin | hin
      · have := hbefore key hin
        simp [hle] at this
        simp [this] at hon
      · rcases List.mem_cons.mp hin with rfl | hin
        · rfl
        · have hsorted : (as ++ q :: bs).Pairwise (· < ·) := hsplit ▸ List.pairwise_lt_finRange 16
          have hlt := (List.pairwise_cons.mp (List.pairwise_append.mp hsorted).2.1).1 key hin
          have := hlow q hlt
          simp [this] at hq

/-- The scan finds nothing exactly when no key of 0x0 to `waitKeyLast` is pressed (R132). -/
theorem Keys.lowest_eq_none {keys : Keys} :
    keys.lowest = none ↔ ∀ key : Reg, key.val ≤ waitKeyLast → keys[key] = false := by
  unfold Keys.lowest
  simp [List.find?_eq_none]

/-- The fetch reads the two bytes at `pc`, high byte first, when both lie in memory (R71, R33). -/
theorem fetch_eq_some {s : State} {w : Word} :
    fetch s = some w ↔
      s.pc.toNat ≤ 0xFFE ∧ wordOfBytes (s.mem.read s.pc.toNat) (s.mem.read (s.pc.toNat + 1)) = w := by
  unfold fetch
  split <;> simp_all

/-- The fetch finds no word exactly when `pc` is above 0xFFE (R71). -/
theorem fetch_eq_none {s : State} : fetch s = none ↔ 0xFFE < s.pc.toNat := by
  unfold fetch
  split <;> simp <;> omega

/-- A flag byte is 0x00 or 0x01 (R12). -/
theorem flagByte_eq_one {c : Bool} : flagByte c = 1 ↔ c = true := by cases c <;> decide

/-- The digits of a byte as numbers (R113). -/
theorem decimalDigits_toNat (b : Byte) :
    (decimalDigits b).map BitVec.toNat = [b.toNat / 100, b.toNat / 10 % 10, b.toNat % 10] := by
  simp [decimalDigits]

@[simp] theorem zextAddr_toNat (nnn : Addr) : (zextAddr nnn).toNat = nnn.toNat := by
  have := nnn.isLt
  simp [zextAddr]; omega

@[simp] theorem zextByte_toNat (b : Byte) : (zextByte b).toNat = b.toNat := by
  have := b.isLt
  simp [zextByte]; omega

/-- The glyph address does not overflow 16 bits (R112). -/
theorem glyphAddr_toNat (b : Byte) : (glyphAddr b).toNat = b.toNat * 5 := by
  have := b.isLt
  simp [glyphAddr, BitVec.toNat_mul]; omega

/-- The registers V0 to Vx, one by one (R114). -/
theorem State.getElem?_regsUpTo (s : State) (x : Reg) (k : Nat) :
    (s.regsUpTo x)[k]? = if h : k ≤ x.val then some (s.getV ⟨k, by omega⟩) else none := by
  unfold State.regsUpTo State.getV
  rw [List.getElem?_take]
  split
  · next h => simp [show k ≤ x.val by omega, show k < 16 by omega]
  · next h => rw [dif_neg (by omega)]

@[simp] theorem State.length_regsUpTo (s : State) (x : Reg) : (s.regsUpTo x).length = x.val + 1 := by
  simp [State.regsUpTo]

/-- The next state of a step: a halted core's own state, a fetch fault, an illegal word's fault, or the cycle of the
decoded instruction (R79). -/
theorem step_cases {s t : State} (h : step s = .next t) :
    (s.halted = true ∧ t = s) ∨
    (s.halted = false ∧ fetch s = none ∧ t = { s with fault := ⟨.addressOutOfRange, s.pc⟩ }) ∨
    (∃ w e, s.halted = false ∧ fetch s = some w ∧ decodeWord w = .error e ∧
      t = { s with fault := ⟨.unknownOpcode, w⟩ }) ∨
    (∃ w i, s.halted = false ∧ fetch s = some w ∧ decodeWord w = .ok i ∧ exec i s = .next t) := by
  unfold step at h
  split at h
  · exact .inl ⟨‹_›, by simpa [haltedCycle, eq_comm] using h⟩
  · next hh =>
    have hh : s.halted = false := by simpa using hh
    split at h
    · exact .inr (.inl ⟨hh, ‹_›, raise_eq_next.mp h⟩)
    · split at h
      · exact .inr (.inr (.inr ⟨_, _, hh, ‹_›, ‹_›, h⟩))
      · exact .inr (.inr (.inl ⟨_, _, hh, ‹_›, ‹_›, raise_eq_next.mp h⟩))

end Sys2Proof.Machine
end

