-- ==== Sys2Proof/Laws/Exec.lean ====
section
/-! SUPPORT. What a cycle can do, said once: an instruction whose condition holds completes with its effect, any other
latches one fault with one information.  Rules over the whole machine are derived from this, instruction by instruction. -/

namespace Sys2Proof.Machine

/-- The effect of an instruction that completes, on the advanced state and before the tick. -/
def effect (i : Instr) (s : State) : State :=
  match i with
  | .cls => s.setFb FrameBuffer.blank
  | .ret => s.popPc
  | .jp nnn => s.setPc (zextAddr nnn)
  | .call nnn => (s.push s.pc).setPc (zextAddr nnn)
  | .seVxNn x nn => s.skipIf (s.getV x == nn)
  | .sneVxNn x nn => s.skipIf (s.getV x != nn)
  | .seVxVy x y => s.skipIf (s.getV x == s.getV y)
  | .ldVxNn x nn => s.setV x nn
  | .addVxNn x nn => s.setV x (s.getV x + nn)
  | .ldVxVy x y => s.setV x (s.getV y)
  | .orVxVy x y => s.setV x (s.getV x ||| s.getV y)
  | .andVxVy x y => s.setV x (s.getV x &&& s.getV y)
  | .xorVxVy x y => s.setV x (s.getV x ^^^ s.getV y)
  | .addVxVy x y => (s.setV x (s.getV x + s.getV y)).setFlag (carryOut (s.getV x) (s.getV y))
  | .sub x y => (s.setV x (s.getV x - s.getV y)).setFlag (noBorrow (s.getV x) (s.getV y))
  | .shr x _ => (s.setFlag (lowBit (s.getV x))).setV x ((s.setFlag (lowBit (s.getV x))).getV x >>> 1)
  | .subn x y => (s.setV x (s.getV y - s.getV x)).setFlag (noBorrow (s.getV y) (s.getV x))
  | .shl x _ => (s.setFlag (highBit (s.getV x))).setV x ((s.setFlag (highBit (s.getV x))).getV x <<< 1)
  | .sneVxVy x y => s.skipIf (s.getV x != s.getV y)
  | .ldINnn nnn => s.setI (zextAddr nnn)
  | .jpV0 nnn => s.setPc (zextAddr nnn + zextByte (s.getV 0))
  | .rnd x nn => (s.setV x (Config.rnd s.draws &&& nn)).nextDraw
  | .drw x y n => s.drawSprite x y n.toNat
  | .skp x => s.skipIf ((s.k[(s.getV x).toNat]?).getD false == true)
  | .sknp x => s.skipIf ((s.k[(s.getV x).toNat]?).getD false == false)
  | .ldVxDt x => s.setV x s.dt
  | .ldVxK x =>
    match s.k.lowest with
    | none => s.setPc (s.pc - 2)
    | some key => s.setV x (BitVec.ofNat 8 key.val)
  | .ldDtVx x => s.setDt (s.getV x)
  | .ldStVx x => s.setSt (s.getV x)
  | .addIVx x => s.setI (s.i + zextByte (s.getV x))
  | .ldFVx x => s.setI (glyphAddr (s.getV x))
  | .ldBVx x => s.setMem (s.mem.storeBytes (s.dataAddr 0) (decimalDigits (s.getV x)))
  | .ldMiVx x => s.setMem (s.mem.storeBytes (s.dataAddr 0) (s.regsUpTo x))
  | .ldVxMi x => s.loadRegs x

/-- When an instruction completes: the checks its rule makes before its first write (R76). -/
def completes (i : Instr) (s : State) : Prop :=
  match i with
  | .ret => s.sp.val ≠ 0
  | .call _ => s.sp.val ≠ 16
  | .drw _ _ n => InMemory s.i.toNat n.toNat
  | .ldBVx _ => InMemory s.i.toNat 3
  | .ldMiVx x => InMemory s.i.toNat (x.val + 1)
  | .ldVxMi x => InMemory s.i.toNat (x.val + 1)
  | .skp x => (s.getV x).toNat < 16
  | .sknp x => (s.getV x).toNat < 16
  | _ => True

/-- The cause an instruction that does not complete latches (R141). -/
def faultCause (i : Instr) : FaultCause :=
  match i with
  | .ret => .stackUnderflow
  | .call _ => .stackOverflow
  | .skp _ => .keyIndexOutOfRange
  | .sknp _ => .keyIndexOutOfRange
  | _ => .addressOutOfRange

/-- The information an instruction that does not complete latches (R141). -/
def faultInfo (i : Instr) (s : State) : Word :=
  match i with
  | .ret => encode i
  | .call _ => encode i
  | .skp _ => encode i
  | .sknp _ => encode i
  | _ => s.i

/-- Whether an instruction completes is decided by the state. -/
theorem completes_or_not (i : Instr) (s : State) : completes i s ∨ ¬ completes i s := Classical.em _

/-- An instruction whose checks hold completes. -/
theorem exec_of_completes {i : Instr} {s : State} (h : completes i s) :
    exec i s = .next (effect i s.advance).tick := by
  cases i with
  | ret => exact if_neg h
  | call nnn => exact if_neg h
  | drw x y n => exact accessing_of_inMemory h _
  | ldBVx x => exact accessing_of_inMemory h _
  | ldMiVx x => exact accessing_of_inMemory h _
  | ldVxMi x => exact accessing_of_inMemory h _
  | skp x =>
    refine (keySkip_of_key (key := ⟨_, h⟩) rfl (.skp x) true).trans ?_
    have h : (s.getV x).toNat < 16 := h
    simp [effect, h]
  | sknp x =>
    refine (keySkip_of_key (key := ⟨_, h⟩) rfl (.sknp x) false).trans ?_
    have h : (s.getV x).toNat < 16 := h
    simp [effect, h]
  | _ => rfl

/-- An instruction whose checks fail latches its fault and changes nothing else. -/
theorem exec_of_not_completes {i : Instr} {s : State} (h : ¬ completes i s) :
    exec i s = .next { s with fault := ⟨faultCause i, faultInfo i s⟩ } := by
  cases i with
  | ret => exact if_pos (not_not.mp h)
  | call nnn => exact if_pos (not_not.mp h)
  | drw x y n => exact accessing_of_not_inMemory h _
  | ldBVx x => exact accessing_of_not_inMemory h _
  | ldMiVx x => exact accessing_of_not_inMemory h _
  | ldVxMi x => exact accessing_of_not_inMemory h _
  | skp x => exact keySkip_of_out_of_range (Nat.not_lt.mp h) _ _
  | sknp x => exact keySkip_of_out_of_range (Nat.not_lt.mp h) _ _
  | _ => exact absurd trivial h

/-- No instruction latches the cause None. -/
theorem faultCause_ne_none (i : Instr) : faultCause i ≠ .none := by
  cases i <;> simp [faultCause]

/-- Everything a cycle of a decoded instruction can do. -/
theorem exec_cases {i : Instr} {s t : State} (h : exec i s = .next t) :
    (completes i s ∧ t = (effect i s.advance).tick) ∨
    (¬ completes i s ∧ t = { s with fault := ⟨faultCause i, faultInfo i s⟩ }) := by
  rcases completes_or_not i s with hc | hc
  · rw [exec_of_completes hc, Host.Outcome.next.injEq] at h
    exact .inl ⟨hc, h.symm⟩
  · rw [exec_of_not_completes hc, Host.Outcome.next.injEq] at h
    exact .inr ⟨hc, h.symm⟩

/-! ## What no effect touches -/

theorem effect_fault (i : Instr) (s : State) : (effect i s).fault = s.fault := by
  cases i <;> first | rfl | (simp [effect]; done) | (simp only [effect]; split <;> rfl)

theorem effect_k (i : Instr) (s : State) : (effect i s).k = s.k := by
  cases i <;> first | rfl | (simp [effect]; done) | (simp only [effect]; split <;> rfl)

end Sys2Proof.Machine
end

