-- ==== Sys2Proof/Laws/PerInstr.lean ====
section
/-! SUPPORT. Statements made for every instruction: the word of an instruction matches its row of the opcode table of
30_encoding.md R56, that is `encode i AND mask = match`. -/

namespace Sys2Proof

/-! ## Masking the words of the formats -/

theorem formatNNN_and_op (op : Nibble) (nnn : Addr) : formatNNN op nnn &&& 0xF000#16 = formatNNN op 0#12 := by
  rw [show 0xF000#16 = formatNNN 0xF#4 0#12 by decide]
  unfold formatNNN
  rw [BitVec.and_append, BitVec.and_zero, show op &&& 0xF#4 = op from BitVec.and_allOnes]

theorem formatXNN_and_op (op : Nibble) (x : Reg) (nn : Byte) : formatXNN op x nn &&& 0xF000#16 = formatXNN op 0 0#8 := by
  rw [show 0xF000#16 = formatXNN 0xF#4 0 0#8 by decide]
  unfold formatXNN
  rw [BitVec.and_append, BitVec.and_append, BitVec.and_zero, show op &&& 0xF#4 = op from BitVec.and_allOnes,
    show regBits x &&& regBits 0 = regBits 0 from BitVec.and_zero]

theorem formatXNN_and_opNN (op : Nibble) (x : Reg) (nn : Byte) :
    formatXNN op x nn &&& 0xF0FF#16 = formatXNN op 0 nn := by
  rw [show 0xF0FF#16 = formatXNN 0xF#4 0 0xFF#8 by decide]
  unfold formatXNN
  rw [BitVec.and_append, BitVec.and_append, show nn &&& 0xFF#8 = nn from BitVec.and_allOnes,
    show op &&& 0xF#4 = op from BitVec.and_allOnes, show regBits x &&& regBits 0 = regBits 0 from BitVec.and_zero]

theorem formatXYN_and_op (op : Nibble) (x y : Reg) (n : Nibble) :
    formatXYN op x y n &&& 0xF000#16 = formatXYN op 0 0 0#4 := by
  rw [show 0xF000#16 = formatXYN 0xF#4 0 0 0#4 by decide]
  unfold formatXYN
  rw [BitVec.and_append, BitVec.and_append, BitVec.and_append, BitVec.and_zero,
    show op &&& 0xF#4 = op from BitVec.and_allOnes, show regBits x &&& regBits 0 = regBits 0 from BitVec.and_zero,
    show regBits y &&& regBits 0 = regBits 0 from BitVec.and_zero]

theorem formatXYN_and_opN (op : Nibble) (x y : Reg) (n : Nibble) :
    formatXYN op x y n &&& 0xF00F#16 = formatXYN op 0 0 n := by
  rw [show 0xF00F#16 = formatXYN 0xF#4 0 0 0xF#4 by decide]
  unfold formatXYN
  rw [BitVec.and_append, BitVec.and_append, BitVec.and_append, show n &&& 0xF#4 = n from BitVec.and_allOnes,
    show op &&& 0xF#4 = op from BitVec.and_allOnes, show regBits x &&& regBits 0 = regBits 0 from BitVec.and_zero,
    show regBits y &&& regBits 0 = regBits 0 from BitVec.and_zero]

/-! ## One lemma per instruction -/

/-- The word of an instruction matches the instruction's row of R56. -/
def Laws.MatchesRow.Statement (i : Instr) : Prop := encode i &&& i.row.mask = i.row.pattern

theorem Laws.MatchesRow.cls : Laws.MatchesRow.Statement .cls := rfl

theorem Laws.MatchesRow.ret : Laws.MatchesRow.Statement .ret := rfl

theorem Laws.MatchesRow.jp (nnn : Addr) : Laws.MatchesRow.Statement (.jp nnn) :=
  (formatNNN_and_op ..).trans rfl

theorem Laws.MatchesRow.call (nnn : Addr) : Laws.MatchesRow.Statement (.call nnn) :=
  (formatNNN_and_op ..).trans rfl

theorem Laws.MatchesRow.seVxNn (x : Reg) (nn : Byte) : Laws.MatchesRow.Statement (.seVxNn x nn) :=
  (formatXNN_and_op ..).trans rfl

theorem Laws.MatchesRow.sneVxNn (x : Reg) (nn : Byte) : Laws.MatchesRow.Statement (.sneVxNn x nn) :=
  (formatXNN_and_op ..).trans rfl

theorem Laws.MatchesRow.seVxVy (x y : Reg) : Laws.MatchesRow.Statement (.seVxVy x y) :=
  (formatXYN_and_opN ..).trans rfl

theorem Laws.MatchesRow.ldVxNn (x : Reg) (nn : Byte) : Laws.MatchesRow.Statement (.ldVxNn x nn) :=
  (formatXNN_and_op ..).trans rfl

theorem Laws.MatchesRow.addVxNn (x : Reg) (nn : Byte) : Laws.MatchesRow.Statement (.addVxNn x nn) :=
  (formatXNN_and_op ..).trans rfl

theorem Laws.MatchesRow.ldVxVy (x y : Reg) : Laws.MatchesRow.Statement (.ldVxVy x y) :=
  (formatXYN_and_opN ..).trans rfl

theorem Laws.MatchesRow.orVxVy (x y : Reg) : Laws.MatchesRow.Statement (.orVxVy x y) :=
  (formatXYN_and_opN ..).trans rfl

theorem Laws.MatchesRow.andVxVy (x y : Reg) : Laws.MatchesRow.Statement (.andVxVy x y) :=
  (formatXYN_and_opN ..).trans rfl

theorem Laws.MatchesRow.xorVxVy (x y : Reg) : Laws.MatchesRow.Statement (.xorVxVy x y) :=
  (formatXYN_and_opN ..).trans rfl

theorem Laws.MatchesRow.addVxVy (x y : Reg) : Laws.MatchesRow.Statement (.addVxVy x y) :=
  (formatXYN_and_opN ..).trans rfl

theorem Laws.MatchesRow.sub (x y : Reg) : Laws.MatchesRow.Statement (.sub x y) :=
  (formatXYN_and_opN ..).trans rfl

theorem Laws.MatchesRow.shr (x y : Reg) : Laws.MatchesRow.Statement (.shr x y) :=
  (formatXYN_and_opN ..).trans rfl

theorem Laws.MatchesRow.subn (x y : Reg) : Laws.MatchesRow.Statement (.subn x y) :=
  (formatXYN_and_opN ..).trans rfl

theorem Laws.MatchesRow.shl (x y : Reg) : Laws.MatchesRow.Statement (.shl x y) :=
  (formatXYN_and_opN ..).trans rfl

theorem Laws.MatchesRow.sneVxVy (x y : Reg) : Laws.MatchesRow.Statement (.sneVxVy x y) :=
  (formatXYN_and_opN ..).trans rfl

theorem Laws.MatchesRow.ldINnn (nnn : Addr) : Laws.MatchesRow.Statement (.ldINnn nnn) :=
  (formatNNN_and_op ..).trans rfl

theorem Laws.MatchesRow.jpV0 (nnn : Addr) : Laws.MatchesRow.Statement (.jpV0 nnn) :=
  (formatNNN_and_op ..).trans rfl

theorem Laws.MatchesRow.rnd (x : Reg) (nn : Byte) : Laws.MatchesRow.Statement (.rnd x nn) :=
  (formatXNN_and_op ..).trans rfl

theorem Laws.MatchesRow.drw (x y : Reg) (n : Nibble) : Laws.MatchesRow.Statement (.drw x y n) :=
  (formatXYN_and_op ..).trans rfl

theorem Laws.MatchesRow.skp (x : Reg) : Laws.MatchesRow.Statement (.skp x) :=
  (formatXNN_and_opNN ..).trans rfl

theorem Laws.MatchesRow.sknp (x : Reg) : Laws.MatchesRow.Statement (.sknp x) :=
  (formatXNN_and_opNN ..).trans rfl

theorem Laws.MatchesRow.ldVxDt (x : Reg) : Laws.MatchesRow.Statement (.ldVxDt x) :=
  (formatXNN_and_opNN ..).trans rfl

theorem Laws.MatchesRow.ldVxK (x : Reg) : Laws.MatchesRow.Statement (.ldVxK x) :=
  (formatXNN_and_opNN ..).trans rfl

theorem Laws.MatchesRow.ldDtVx (x : Reg) : Laws.MatchesRow.Statement (.ldDtVx x) :=
  (formatXNN_and_opNN ..).trans rfl

theorem Laws.MatchesRow.ldStVx (x : Reg) : Laws.MatchesRow.Statement (.ldStVx x) :=
  (formatXNN_and_opNN ..).trans rfl

theorem Laws.MatchesRow.addIVx (x : Reg) : Laws.MatchesRow.Statement (.addIVx x) :=
  (formatXNN_and_opNN ..).trans rfl

theorem Laws.MatchesRow.ldFVx (x : Reg) : Laws.MatchesRow.Statement (.ldFVx x) :=
  (formatXNN_and_opNN ..).trans rfl

theorem Laws.MatchesRow.ldBVx (x : Reg) : Laws.MatchesRow.Statement (.ldBVx x) :=
  (formatXNN_and_opNN ..).trans rfl

theorem Laws.MatchesRow.ldMiVx (x : Reg) : Laws.MatchesRow.Statement (.ldMiVx x) :=
  (formatXNN_and_opNN ..).trans rfl

theorem Laws.MatchesRow.ldVxMi (x : Reg) : Laws.MatchesRow.Statement (.ldVxMi x) :=
  (formatXNN_and_opNN ..).trans rfl

end Sys2Proof
end

