-- ==== Sys2Proof/Tests/Slice0.lean ====
section
/-! SUPPORT. Tests.  Every expected value comes from spec/: the words from the encodings of R56, the results from the
vectors of 95_test_vectors.md (their ids stand beside the tests).  The last part shows, for every obligation with
hypotheses, a concrete state that meets them. -/

namespace Sys2Proof.Tests

open Sys2Proof.Machine Sys2Proof.Claims

/-! ## Ill-formed words and images are refused (R57, R176; vectors X1 to X15, H2, H3) -/

theorem test_illegal_op0 :
    [0x0000#16, 0x00E1#16, 0x00FF#16, 0x0123#16].map wordWellFormed = [false, false, false, false] := by decide
theorem test_illegal_op5 : [0x5121#16, 0x512F#16].map wordWellFormed = [false, false] := by decide
theorem test_illegal_op8 :
    [0x8128#16, 0x8129#16, 0x812D#16, 0x812F#16].map wordWellFormed = [false, false, false, false] := by decide
theorem test_illegal_op9 : [0x9121#16].map wordWellFormed = [false] := by decide
theorem test_illegal_opE : [0xE000#16, 0xE09F#16, 0xE19D#16].map wordWellFormed = [false, false, false] := by decide
theorem test_illegal_opF :
    [0xF000#16, 0xF008#16, 0xF075#16, 0xF0FF#16, 0xF166#16, 0xFF1F#16].map wordWellFormed =
      [false, false, false, false, false, false] := by decide
theorem test_legal_words :
    [0x00E0#16, 0x00EE#16, 0x5120#16, 0x9120#16, 0x812E#16, 0xE09E#16, 0xE0A1#16, 0xF165#16, 0x1000#16, 0xC000#16,
      0xD000#16].all wordWellFormed = true := by decide
theorem test_image_sizes :
    imageWellFormed (List.replicate 3584 0xAA#8) = true ∧ imageWellFormed (List.replicate 3585 0xAA#8) = false := by
  constructor <;> unfold imageWellFormed <;> rw [List.length_replicate] <;> rfl
theorem test_illegal_words_are_refused_by_the_decoder :
    decodeWord 0x0000#16 = .error (.unknownOpcode 0x0000#16) ∧ decodeWord 0x5121#16 = .error (.unknownOpcode 0x5121#16) ∧
    decodeWord 0x8128#16 = .error (.unknownOpcode 0x8128#16) ∧ decodeWord 0x9121#16 = .error (.unknownOpcode 0x9121#16) ∧
    decodeWord 0xE09F#16 = .error (.unknownOpcode 0xE09F#16) ∧
    decodeWord 0xF166#16 = .error (.unknownOpcode 0xF166#16) := by decide
theorem test_short_bytes_are_refused : decode [0x60#8] = .error .truncated ∧ decode [] = .error .truncated := by decide

/-! ## Every constructor's word, written out from R56 -/

theorem test_decode_control :
    decodeWord 0x00EE#16 = .ok .ret ∧ decodeWord 0x1234#16 = .ok (.jp 0x234#12) ∧
    decodeWord 0x2300#16 = .ok (.call 0x300#12) ∧ decodeWord 0x332A#16 = .ok (.seVxNn 0x3 0x2A#8) ∧
    decodeWord 0x432A#16 = .ok (.sneVxNn 0x3 0x2A#8) ∧ decodeWord 0x5120#16 = .ok (.seVxVy 0x1 0x2) ∧
    decodeWord 0x9120#16 = .ok (.sneVxVy 0x1 0x2) ∧ decodeWord 0xBFFF#16 = .ok (.jpV0 0xFFF#12) := by decide
theorem test_decode_registers :
    decodeWord 0x6FAB#16 = .ok (.ldVxNn 0xF 0xAB#8) ∧ decodeWord 0x7203#16 = .ok (.addVxNn 0x2 0x03#8) ∧
    decodeWord 0x8010#16 = .ok (.ldVxVy 0x0 0x1) ∧ decodeWord 0x8011#16 = .ok (.orVxVy 0x0 0x1) ∧
    decodeWord 0x8012#16 = .ok (.andVxVy 0x0 0x1) ∧ decodeWord 0x8013#16 = .ok (.xorVxVy 0x0 0x1) ∧
    decodeWord 0xC30F#16 = .ok (.rnd 0x3 0x0F#8) := by decide
theorem test_decode_flag_arithmetic :
    decodeWord 0x80F4#16 = .ok (.addVxVy 0x0 0xF) ∧ decodeWord 0x8F15#16 = .ok (.sub 0xF 0x1) ∧
    decodeWord 0x8236#16 = .ok (.shr 0x2 0x3) ∧ decodeWord 0x8017#16 = .ok (.subn 0x0 0x1) ∧
    decodeWord 0x823E#16 = .ok (.shl 0x2 0x3) := by decide
theorem test_decode_index_memory :
    decodeWord 0xA300#16 = .ok (.ldINnn 0x300#12) ∧ decodeWord 0xF11E#16 = .ok (.addIVx 0x1) ∧
    decodeWord 0xF429#16 = .ok (.ldFVx 0x4) ∧ decodeWord 0xF033#16 = .ok (.ldBVx 0x0) ∧
    decodeWord 0xF255#16 = .ok (.ldMiVx 0x2) ∧ decodeWord 0xF465#16 = .ok (.ldVxMi 0x4) := by decide
theorem test_decode_display :
    decodeWord 0x00E0#16 = .ok .cls ∧ decodeWord 0xD125#16 = .ok (.drw 0x1 0x2 0x5#4) := by decide
theorem test_decode_keys_timers :
    decodeWord 0xE59E#16 = .ok (.skp 0x5) ∧ decodeWord 0xE5A1#16 = .ok (.sknp 0x5) ∧
    decodeWord 0xF307#16 = .ok (.ldVxDt 0x3) ∧ decodeWord 0xF20A#16 = .ok (.ldVxK 0x2) ∧
    decodeWord 0xF315#16 = .ok (.ldDtVx 0x3) ∧ decodeWord 0xF318#16 = .ok (.ldStVx 0x3) := by decide
theorem test_decode_is_big_endian :
    decode [0x60#8, 0x05#8, 0x61#8, 0x03#8] = .ok (.ldVxNn 0x0 0x05#8, [0x61#8, 0x03#8]) := by decide
theorem test_decodeTableWord : decodeTableWord 16 0x8014 = some (.addVxVy 0x0 0x1) ∧ decodeTableWord 16 0x5121 = none := by
  decide

/-! ## One step of every instruction -/

/-- Reset with some registers set. -/
def regs (l : List (Reg × Byte)) : State := l.foldl (fun s p => s.setV p.1 p.2) State.reset

/-- Reset with some keys pressed. -/
def keysDown (l : List Reg) : State := l.foldl (fun s k => s.press k) State.reset

/-- `word` placed at `pc` of a state. -/
def fetching (s : State) (word : Nat) : State := s.withFetchWord 16 word

/-- The next state a result answers. -/
def nextOf : Result → Option State
  | .next t => some t
  | _ => none

/-- The state after one step that runs `word` at `pc` of a state. -/
def run (s : State) (word : Nat) : State := (nextOf (step (fetching s word))).getD s

/-- F1, F3, F5, F6 -/
theorem test_jp : (run State.reset 0x1234).pc = 0x0234#16 := by decide
theorem test_call :
    let t := run State.reset 0x2300
    t.pc = 0x0300#16 ∧ t.sp.val = 1 ∧ t.stack[0] = 0x0202#16 := by decide
theorem test_call_stack_bounds :
    let t := run { State.reset with sp := 15 } 0x2300
    let u := run { State.reset with sp := 16 } 0x2300
    (t.sp.val = 16 ∧ t.stack[15] = 0x0202#16) ∧
    (u.fault = ⟨.stackOverflow, 0x2300#16⟩ ∧ u.pc = 0x0200#16 ∧ u.sp.val = 16) := by decide
/-- F8, F7 -/
theorem test_ret :
    let s := { State.reset with pc := 0x0300#16, sp := 1, stack := State.reset.stack.set 0 0x0202#16 }
    (run s 0x00EE).pc = 0x0202#16 ∧ (run s 0x00EE).sp.val = 0 := by decide
theorem test_ret_on_empty_stack :
    (run State.reset 0x00EE).fault = ⟨.stackUnderflow, 0x00EE#16⟩ ∧ (run State.reset 0x00EE).pc = 0x0200#16 := by decide
/-- F9 to F18 -/
theorem test_se_vx_nn :
    (run (regs [(3, 0x2A#8)]) 0x332A).pc = 0x0204#16 ∧ (run (regs [(3, 0x2B#8)]) 0x332A).pc = 0x0202#16 := by decide
theorem test_sne_vx_nn :
    (run (regs [(3, 0x2A#8)]) 0x432A).pc = 0x0202#16 ∧ (run (regs [(3, 0x00#8)]) 0x432A).pc = 0x0204#16 := by decide
theorem test_se_vx_vy :
    (run (regs [(1, 0x07#8), (2, 0x07#8)]) 0x5120).pc = 0x0204#16 ∧
    (run (regs [(1, 0x07#8), (2, 0x08#8)]) 0x5120).pc = 0x0202#16 := by decide
theorem test_sne_vx_vy :
    (run (regs [(1, 0x07#8), (2, 0x08#8)]) 0x9120).pc = 0x0204#16 ∧
    (run (regs [(1, 0x07#8), (2, 0x07#8)]) 0x9120).pc = 0x0202#16 := by decide
/-- F23, F25 -/
theorem test_jp_v0 :
    (run (regs [(0, 0x04#8)]) 0xB300).pc = 0x0304#16 ∧ (run (regs [(0, 0xFF#8)]) 0xBFFF).pc = 0x10FE#16 := by decide
/-- F20, F22: `pc` may be odd, and is not wrapped. -/
theorem test_pc_odd_and_beyond_memory :
    (run { State.reset with pc := 0x0201#16 } 0x6005).pc = 0x0203#16 ∧
    (run { State.reset with pc := 0x0FFE#16 } 0x3000).pc = 0x1002#16 := by decide

/-- A1 -/
theorem test_ld_vx_nn : (run State.reset 0x6FAB).getV VF = 0xAB#8 := by decide
/-- A2 -/
theorem test_add_vx_nn :
    let t := run (regs [(2, 0xFE#8), (VF, 0x55#8)]) 0x7203
    t.getV 2 = 0x01#8 ∧ t.getV VF = 0x55#8 := by decide
/-- A39 to A42 -/
theorem test_ld_vx_vy : (run (regs [(1, 0x33#8)]) 0x8010).getV 0 = 0x33#8 := by decide
theorem test_or :
    let t := run (regs [(0, 0xF0#8), (1, 0x0F#8), (VF, 0x55#8)]) 0x8011
    t.getV 0 = 0xFF#8 ∧ t.getV VF = 0x55#8 := by decide
theorem test_and :
    let t := run (regs [(0, 0xF0#8), (1, 0x3C#8), (VF, 0x55#8)]) 0x8012
    t.getV 0 = 0x30#8 ∧ t.getV VF = 0x55#8 := by decide
theorem test_xor :
    let t := run (regs [(0, 0xF0#8), (1, 0x3C#8), (VF, 0x55#8)]) 0x8013
    t.getV 0 = 0xCC#8 ∧ t.getV VF = 0x55#8 := by decide
/-- A7, A8; A10, A12 -/
theorem test_add_vx_vy :
    let t := run (regs [(0, 0xFF#8), (1, 0xFF#8)]) 0x8014
    let u := run (regs [(0, 0x80#8), (1, 0x7F#8)]) 0x8014
    (t.getV 0 = 0xFE#8 ∧ t.getV VF = 1) ∧ (u.getV 0 = 0xFF#8 ∧ u.getV VF = 0) := by decide
theorem test_add_with_VF :
    let t := run (regs [(VF, 0xF0#8), (1, 0x20#8)]) 0x8F14
    let u := run (regs [(0, 0x10#8), (VF, 0xF5#8)]) 0x80F4
    t.getV VF = 1 ∧ (u.getV 0 = 0x05#8 ∧ u.getV VF = 1) := by decide
/-- A13, A15; A18, A19 -/
theorem test_sub :
    let t := run (regs [(0, 0x03#8), (1, 0x05#8)]) 0x8015
    let u := run (regs [(0, 0x07#8), (1, 0x07#8)]) 0x8015
    (t.getV 0 = 0xFE#8 ∧ t.getV VF = 0) ∧ (u.getV 0 = 0 ∧ u.getV VF = 1) := by decide
theorem test_sub_with_VF :
    (run (regs [(VF, 0x09#8), (1, 0x04#8)]) 0x8F15).getV VF = 1 ∧
    (run (regs [(VF, 0x04#8), (1, 0x09#8)]) 0x8F15).getV VF = 0 := by decide
/-- A21, A22; A24 -/
theorem test_subn :
    let t := run (regs [(0, 0x03#8), (1, 0x05#8)]) 0x8017
    let u := run (regs [(0, 0x05#8), (1, 0x03#8)]) 0x8017
    (t.getV 0 = 0x02#8 ∧ t.getV VF = 1) ∧ (u.getV 0 = 0xFE#8 ∧ u.getV VF = 0) := by decide
theorem test_subn_with_VF : (run (regs [(VF, 0x04#8), (1, 0x09#8)]) 0x8F17).getV VF = 1 := by decide
/-- A27, A29; A30 -/
theorem test_shr :
    let t := run (regs [(2, 0xFF#8)]) 0x8236
    let u := run (regs [(2, 0xFE#8), (3, 0x01#8)]) 0x8236
    (t.getV 2 = 0x7F#8 ∧ t.getV VF = 1) ∧ (u.getV 2 = 0x7F#8 ∧ u.getV VF = 0 ∧ u.getV 3 = 1) := by decide
theorem test_shr_of_VF : (run (regs [(VF, 0xFF#8)]) 0x8F06).getV VF = 0 := by decide
/-- A32, A35; A36, A37 -/
theorem test_shl :
    let t := run (regs [(2, 0x81#8)]) 0x820E
    let u := run (regs [(2, 0x7F#8), (VF, 0x01#8)]) 0x820E
    (t.getV 2 = 0x02#8 ∧ t.getV VF = 1) ∧ (u.getV 2 = 0xFE#8 ∧ u.getV VF = 0) := by decide
theorem test_shl_of_VF :
    (run (regs [(VF, 0xFF#8)]) 0x8F0E).getV VF = 0x02#8 ∧ (run (regs [(VF, 0x7F#8)]) 0x8F0E).getV VF = 0 := by decide
/-- A46, and that the draw is used up -/
theorem test_rnd_masks_everything :
    let t := run (regs [(3, 0x99#8)]) 0xC300
    t.getV 3 = 0 ∧ t.pc = 0x0202#16 ∧ t.draws = 1 := by
  refine ⟨?_, by decide, by decide⟩
  show Config.rnd 0 &&& 0#8 = 0#8
  simp

/-- M2 -/
theorem test_ld_i_nnn : (run { State.reset with i := 0xFFFF#16 } 0xAFFF).i = 0x0FFF#16 := by decide
/-- M4, M5 -/
theorem test_add_i_vx :
    let t := run { regs [(1, 0x01#8), (VF, 0x55#8)] with i := 0x0FFF#16 } 0xF11E
    let u := run { regs [(1, 0x02#8)] with i := 0xFFFF#16 } 0xF11E
    (t.i = 0x1000#16 ∧ t.getV VF = 0x55#8) ∧ u.i = 0x0001#16 := by decide
/-- M8, M11 -/
theorem test_ld_f_vx :
    (run (regs [(4, 0x0A#8)]) 0xF429).i = 0x0032#16 ∧ (run (regs [(4, 0x34#8)]) 0xF429).i = 0x0104#16 := by decide
/-- M13; M15, M16 -/
theorem test_ld_b_vx :
    let t := run { regs [(0, 0xEA#8)] with i := 0x0300#16 } 0xF033
    t.mem.readBytes 0x300 4 = [2, 3, 4, 0] ∧ t.i = 0x0300#16 := by decide
theorem test_ld_b_vx_bound :
    let t := run { regs [(0, 0x7B#8)] with i := 0x0FFD#16 } 0xF033
    let u := run { regs [(0, 0x7B#8)] with i := 0x0FFE#16 } 0xF033
    t.mem.readBytes 0xFFD 3 = [1, 2, 3] ∧
    (u.fault = ⟨.addressOutOfRange, 0x0FFE#16⟩ ∧ u.pc = 0x0200#16 ∧ u.mem.readBytes 0xFFE 2 = [0, 0]) := by decide
/-- M17; M20, M21 -/
theorem test_ld_mi_vx :
    let t := run { regs [(0, 0x11#8), (1, 0x22#8), (2, 0x33#8), (3, 0x44#8)] with i := 0x0300#16 } 0xF255
    t.mem.readBytes 0x300 4 = [0x11#8, 0x22#8, 0x33#8, 0#8] ∧ t.i = 0x0300#16 := by decide
theorem test_ld_mi_vx_bound :
    let t := run { regs [(0, 0x77#8)] with i := 0x0FFF#16 } 0xF055
    let u := run { regs [(0, 0x77#8)] with i := 0x1000#16 } 0xF055
    t.mem.read 0xFFF = 0x77#8 ∧ u.fault = ⟨.addressOutOfRange, 0x1000#16⟩ := by decide
/-- M22, M23; M24 -/
theorem test_ld_vx_mi :
    let t := run State.reset 0xF465
    let u := run { State.reset with i := 0x0023#16 } 0xFF65
    t.v.toList.take 6 = [0xF0#8, 0x90#8, 0x90#8, 0x90#8, 0xF0#8, 0#8] ∧
    u.v.toList = [0xF0#8, 0x10#8, 0x20#8, 0x40#8, 0x40#8, 0xF0#8, 0x90#8, 0xF0#8, 0x90#8, 0xF0#8, 0xF0#8, 0x90#8,
      0xF0#8, 0x10#8, 0xF0#8, 0xF0#8] := by decide
theorem test_ld_vx_mi_bound :
    let t := run { regs [(0, 0x09#8), (1, 0x09#8)] with i := 0x0FFF#16 } 0xF165
    t.fault = ⟨.addressOutOfRange, 0x0FFF#16⟩ ∧ t.getV 0 = 0x09#8 ∧ t.getV 1 = 0x09#8 := by decide

/-- The columns of a row that are on. -/
def litColumns (f : FrameBuffer) (y : Nat) : List Nat := (List.range 64).filter fun x => f.pixel x y

/-- G12 -/
theorem test_cls :
    let t := run { regs [(VF, 0x09#8)] with fb := Vector.replicate 32 (Vector.replicate 64 true) } 0x00E0
    t.fb = FrameBuffer.blank ∧ t.getV VF = 0x09#8 := by decide
/-- G5, and its VF -/
theorem test_drw_wraps :
    let t := run (regs [(0, 0xFF#8), (1, 0xFF#8)]) 0xD015
    ([31, 0, 1, 2, 3, 4].map (litColumns t.fb) =
      [[0, 1, 2, 63], [2, 63], [2, 63], [2, 63], [0, 1, 2, 63], []]) ∧ t.getV VF = 0 := by decide
/-- G6, G9, G10 -/
theorem test_drw_collision_VF_and_bound :
    let lit := { State.reset with fb := (FrameBuffer.blank.setPixel 0 0 true).setPixel 5 5 true }
    let t := run lit 0xD015
    let u := run { regs [(VF, 0x0A#8), (1, 0x03#8)] with i := 0x0300#16, mem := Memory.write [] 0x300 0x80#8 } 0xDF11
    let w := run { regs [(VF, 0x33#8)] with i := 0x0FFF#16 } 0xD012
    (t.getV VF = 1 ∧ litColumns t.fb 0 = [1, 2, 3] ∧ litColumns t.fb 5 = [5]) ∧
    (litColumns u.fb 3 = [10] ∧ u.getV VF = 0) ∧
    (w.fault = ⟨.addressOutOfRange, 0x0FFF#16⟩ ∧ w.getV VF = 0x33#8) := by decide

/-- K1, K2; K6 -/
theorem test_skp :
    (run ((keysDown [10]).setV 5 0x0A#8) 0xE59E).pc = 0x0204#16 ∧
    (run (regs [(5, 0x0A#8)]) 0xE59E).pc = 0x0202#16 := by decide
theorem test_skp_key_index : (run ((keysDown [0]).setV 5 0x10#8) 0xE59E).fault = ⟨.keyIndexOutOfRange, 0xE59E#16⟩ := by
  decide
/-- K3, K4; K8 -/
theorem test_sknp :
    (run ((keysDown [10]).setV 5 0x0A#8) 0xE5A1).pc = 0x0202#16 ∧
    (run (regs [(5, 0x0A#8)]) 0xE5A1).pc = 0x0204#16 := by decide
theorem test_sknp_key_index : (run ((keysDown [10]).setV 5 0x1A#8) 0xE5A1).fault = ⟨.keyIndexOutOfRange, 0xE5A1#16⟩ := by
  decide
/-- K9, K12; K10, K11 -/
theorem test_ld_vx_k :
    let t := run { (keysDown [3, 7]).setV 2 0x99#8 with dt := 0x05#8, st := 0x01#8 } 0xF20A
    let u := run (keysDown [14, 15]) 0xF20A
    (t.getV 2 = 0x03#8 ∧ t.pc = 0x0202#16 ∧ t.dt = 0x04#8 ∧ t.st = 0x00#8) ∧ u.getV 2 = 0x0E#8 := by decide
theorem test_ld_vx_k_spins :
    let t := run { regs [(2, 0x99#8)] with dt := 0x05#8 } 0xF20A
    let u := run ((keysDown [15]).setV 2 0x99#8) 0xF20A
    (t.getV 2 = 0x99#8 ∧ t.pc = 0x0200#16 ∧ t.dt = 0x04#8) ∧ (u.getV 2 = 0x99#8 ∧ u.pc = 0x0200#16) := by decide
/-- K14 -/
theorem test_ld_vx_dt :
    let t := run { State.reset with dt := 0x1E#8 } 0xF307
    t.getV 3 = 0x1E#8 ∧ t.dt = 0x1D#8 := by decide
/-- K17 -/
theorem test_ld_dt_vx :
    (run (regs [(3, 0x3C#8)]) 0xF315).dt = 0x3B#8 ∧ (run (regs [(3, 0x00#8)]) 0xF315).dt = 0x00#8 := by decide
/-- K18 -/
theorem test_ld_st_vx :
    (run (regs [(3, 0xFF#8)]) 0xF318).st = 0xFE#8 ∧ (run (regs [(3, 0x01#8)]) 0xF318).st = 0x00#8 := by decide

/-! ## The cycle and the host -/

/-- K20, F21, H5 -/
theorem test_faults_and_halting :
    let t := run { State.reset with dt := 0x05#8, st := 0x05#8 } 0xFFFF
    (t.fault = ⟨.unknownOpcode, 0xFFFF#16⟩ ∧ t.dt = 0x05#8 ∧ t.st = 0x05#8 ∧ nextOf (step t) = some t) := by decide
theorem test_fetch_above_memory :
    nextOf (step { State.reset with pc := 0x0FFF#16 }) =
      some { State.reset with pc := 0x0FFF#16, fault := ⟨.addressOutOfRange, 0x0FFF#16⟩ } := by decide
theorem test_step_after_reset :
    nextOf (step State.reset) = some { State.reset with fault := ⟨.unknownOpcode, 0x0000#16⟩ } := by decide
/-- How the host places a word: on reset, on a halted core, and where no fetch is possible. -/
theorem test_withFetchWord :
    (run State.reset 0x6005).getV 0 = 0x05#8 ∧
    (run { State.reset with fault := ⟨.unknownOpcode, 0xFFFF#16⟩ } 0x6005).getV 0 = 0x05#8 ∧
    (run { State.reset with pc := 0x1002#16 } 0x6005).getV 0 = 0x05#8 := by decide
/-- H1 -/
theorem test_reset :
    let s := { (keysDown [4]).setV 3 0x99#8 with mem := Memory.write [] 0x300 0x55#8, fault := ⟨.unknownOpcode, 0xFFFF#16⟩ }
    s.hostReset = State.reset := by decide
/-- E10: the first five font bytes; F26: the word at 0x000. -/
theorem test_font : State.reset.mem.readBytes 0 5 = [0xF0#8, 0x90#8, 0x90#8, 0x90#8, 0xF0#8] ∧ font.length = 80 := by
  decide
/-- H6, H7 -/
theorem test_keys :
    let s := State.reset.press 4
    s.pressed 4 = true ∧ (s.press 4).pressed 4 = true ∧ ((s.press 4).release 4).pressed 4 = false ∧
    (State.press { State.reset with fault := ⟨.unknownOpcode, 0xFFFF#16⟩ } 2).fault = ⟨.unknownOpcode, 0xFFFF#16⟩ := by
  decide
/-- E8: the image of the scenario, and its first cycle. -/
theorem test_load :
    let s := (State.reset.load [0x60#8, 0x05#8, 0x61#8, 0x03#8, 0x80#8, 0x14#8]).1
    s.mem.readBytes 0x200 6 = [0x60#8, 0x05#8, 0x61#8, 0x03#8, 0x80#8, 0x14#8] ∧
    nextOf (step s) = some { s with v := s.v.set 0 0x05#8, pc := 0x0202#16 } := by decide
/-- H9: four of the elements. -/
theorem test_readFb :
    let s := run State.reset 0xD015
    s.readFb[67] = true ∧ s.readFb[65] = false ∧ s.readFb[259] = true ∧ s.readFb[320] = false := by
  simp only [State.readFb, Vector.getElem_ofFn]
  decide

/-! ## The hypotheses of the obligations are met

`witness_<Name>` shows, for the obligation of that name, concrete values that meet its hypotheses, clause by clause where it
has several, at the ends of their ranges. -/

/-- A step always answers a next state, so it answers the one `nextOf` gives. -/
theorem step_run (s : State) (word : Nat) : step (fetching s word) = .next (run s word) := by
  have h : ∃ t, step (fetching s word) = .next t := by
    unfold step
    split
    · exact ⟨_, rfl⟩
    · split
      · exact ⟨_, rfl⟩
      · split
        · rename_i i _
          rcases completes_or_not i (fetching s word) with hc | hc
          · exact ⟨_, exec_of_completes hc⟩
          · exact ⟨_, exec_of_not_completes hc⟩
        · exact ⟨_, rfl⟩
  obtain ⟨t, ht⟩ := h
  simp [run, ht, nextOf]

/-- The state after a cycle of an instruction. -/
def ran (i : Instr) (s : State) : State := (nextOf (exec i s)).getD s

theorem exec_ran (i : Instr) (s : State) : exec i s = .next (ran i s) := by
  rcases completes_or_not i s with hc | hc
  · rw [ran, exec_of_completes hc]; rfl
  · rw [ran, exec_of_not_completes hc]; rfl

/-- A halted core. -/
def halted : State := { State.reset with fault := ⟨.unknownOpcode, 0xFFFF#16⟩ }

/-- Reset with `I` set. -/
def indexed (i : Word) : State := { State.reset with i := i }

/-- Reset with `pc` set. -/
def atPc (pc : Word) : State := { State.reset with pc := pc }

/-- Reset with `n` stack slots in use. -/
def deep (n : Fin 17) : State := { State.reset with sp := n }

theorem witness_EncodeOfDecode : decodeWord 0x8014#16 = .ok (.addVxVy 0 1) := by decide
theorem witness_WordSelectsItsRow :
    decodeWord 0x00EE#16 = .ok .ret ∧ 0x8234#16 &&& (Instr.addVxVy 0 1).row.mask = (Instr.addVxVy 0 1).row.pattern := by
  decide
theorem witness_IllegalWordsAreRejected :
    (illegalWord 0x0000#16 = true ∧ decodeWord 0x0000#16 = .error (.unknownOpcode 0x0000#16)) ∧
    (illegalWord 0x00E0#16 = false ∧ decodeWord 0x00E0#16 = .ok .cls) := by decide
theorem witness_StepRunsDecodedInstruction :
    let s := fetching (atPc 0x0FFE#16) 0x6005
    s.halted = false ∧ s.pc.toNat ≤ 0xFFE ∧
    decode [s.mem.read s.pc.toNat, s.mem.read (s.pc.toNat + 1)] = .ok (.ldVxNn 0 0x05#8, []) := by decide
theorem witness_FetchAboveMemoryFaults : (atPc 0x0FFF#16).halted = false ∧ 0xFFE < (atPc 0x0FFF#16).pc.toNat := by decide
theorem witness_IllegalWordFaults :
    let s := fetching (atPc 0x0FFE#16) 0x5121
    s.halted = false ∧ s.pc.toNat ≤ 0xFFE ∧
    illegalWord (s.mem.read s.pc.toNat ++ s.mem.read (s.pc.toNat + 1)) = true := by decide
theorem witness_CycleOutcomes : halted.fault.cause ≠ .none ∧ State.reset.fault.cause = .none := by decide

theorem witness_FaultCausesAreExact_unknownOpcode :
    let s := fetching State.reset 0x5121
    s.fault = ⟨.none, 0⟩ ∧ step s = .next (run State.reset 0x5121) ∧
    (run State.reset 0x5121).fault = ⟨.unknownOpcode, 0x5121#16⟩ ∧ FaultsWith s .unknownOpcode 0x5121#16 :=
  ⟨by decide, step_run _ _, by decide, 0x5121#16, by decide⟩
theorem witness_FaultCausesAreExact_stack :
    (run (deep 16) 0x2300).fault = ⟨.stackOverflow, 0x2300#16⟩ ∧
    FaultsWith (fetching (deep 16) 0x2300) .stackOverflow 0x2300#16 ∧
    (run (deep 15) 0x2300).fault.cause = .none ∧
    (run (deep 0) 0x00EE).fault = ⟨.stackUnderflow, 0x00EE#16⟩ ∧
    FaultsWith (fetching (deep 0) 0x00EE) .stackUnderflow 0x00EE#16 ∧
    (run (deep 1) 0x00EE).fault.cause = .none := by
  refine ⟨by decide, ⟨0x300#12, by decide⟩, by decide, by decide, ?_, by decide⟩
  show _ ∧ _
  decide
theorem witness_FaultCausesAreExact_fetch :
    (nextOf (step (atPc 0x0FFF#16))).map State.fault = some ⟨.addressOutOfRange, 0x0FFF#16⟩ ∧
    FaultsWith (atPc 0x0FFF#16) .addressOutOfRange 0x0FFF#16 := ⟨by decide, .inl (by decide)⟩
theorem witness_FaultCausesAreExact_data :
    FaultsWith (fetching (indexed 0x1000#16) 0xD121) .addressOutOfRange 0x1000#16 ∧
    FaultsWith (fetching (indexed 0x0FFE#16) 0xF033) .addressOutOfRange 0x0FFE#16 ∧
    FaultsWith (fetching (indexed 0x0FF1#16) 0xFF55) .addressOutOfRange 0x0FF1#16 ∧
    FaultsWith (fetching (indexed 0x1000#16) 0xF065) .addressOutOfRange 0x1000#16 :=
  ⟨.inr ⟨by decide, .inl ⟨1, 2, 1#4, by decide⟩⟩, .inr ⟨by decide, .inr (.inl ⟨0, by decide⟩)⟩,
    .inr ⟨by decide, .inr (.inr (.inl ⟨15, by decide⟩))⟩, .inr ⟨by decide, .inr (.inr (.inr ⟨0, by decide⟩))⟩⟩
theorem witness_FaultCausesAreExact_data_latched :
    (run (indexed 0x1000#16) 0xD121).fault = ⟨.addressOutOfRange, 0x1000#16⟩ ∧
    (run (indexed 0x0FFE#16) 0xF033).fault = ⟨.addressOutOfRange, 0x0FFE#16⟩ ∧
    (run (indexed 0x0FF1#16) 0xFF55).fault = ⟨.addressOutOfRange, 0x0FF1#16⟩ ∧
    (run (indexed 0x1000#16) 0xF065).fault = ⟨.addressOutOfRange, 0x1000#16⟩ := by decide
theorem witness_FaultCausesAreExact_key :
    (run (regs [(5, 0x10#8)]) 0xE59E).fault = ⟨.keyIndexOutOfRange, 0xE59E#16⟩ ∧
    FaultsWith (fetching (regs [(5, 0x10#8)]) 0xE59E) .keyIndexOutOfRange 0xE59E#16 ∧
    FaultsWith (fetching (regs [(5, 0x10#8)]) 0xE5A1) .keyIndexOutOfRange 0xE5A1#16 :=
  ⟨by decide, ⟨5, .skp 5, by decide⟩, ⟨5, .sknp 5, by decide⟩⟩

theorem witness_TimersTickEachCompletedCycle :
    (step (fetching State.reset 0xF315) = .next (run State.reset 0xF315) ∧ (run State.reset 0xF315).fault.cause = .none) ∧
    (step (fetching State.reset 0xF307) = .next (run State.reset 0xF307) ∧ (run State.reset 0xF307).fault.cause = .none) :=
  ⟨⟨step_run _ _, by decide⟩, step_run _ _, by decide⟩
theorem witness_ProgramCounterTable :
    let s := fetching (indexed 0x0FFD#16) 0xF033
    let u := fetching (indexed 0x0FFE#16) 0xF033
    (s.halted = false ∧ fetch s = some (encode (.ldBVx 0)) ∧ step s = .next (run (indexed 0x0FFD#16) 0xF033) ∧
      (run (indexed 0x0FFD#16) 0xF033).fault.cause = .none) ∧
    (u.halted = false ∧ fetch u = some (encode (.ldBVx 0)) ∧ step u = .next (run (indexed 0x0FFE#16) 0xF033) ∧
      (run (indexed 0x0FFE#16) 0xF033).fault.cause ≠ .none) :=
  ⟨⟨by decide, by decide, step_run _ _, by decide⟩, by decide, by decide, step_run _ _, by decide⟩

theorem witness_StepKeepsInvariant : (fetching (deep 16) 0x00EE).Inv ∧ (run (deep 16) 0x00EE).fault.cause = .none :=
  ⟨⟨by decide, by decide, by decide, by decide⟩, by decide⟩
theorem witness_HostScriptKeepsInvariant :
    (atPc 0x10FE#16).Inv ∧
    ∃ t, runScript [.step, .reset, .load [0x60#8, 0x05#8], .press 3, .release 3, .step] (atPc 0x10FE#16) = .next t :=
  ⟨⟨by decide, by decide, by decide, by decide⟩, _, rfl⟩

theorem witness_CyclesKeepKeys : step (fetching (keysDown [3]) 0xF20A) = .next (run (keysDown [3]) 0xF20A) := step_run _ _
theorem witness_StackDiscipline :
    step (fetching (deep 15) 0x2300) = .next (run (deep 15) 0x2300) ∧ (run (deep 15) 0x2300).sp.val = 16 :=
  ⟨step_run _ _, by decide⟩
theorem witness_DisplayWriters :
    step (fetching State.reset 0xD015) = .next (run State.reset 0xD015) ∧
    (run State.reset 0xD015).fb ≠ (fetching State.reset 0xD015).fb := ⟨step_run _ _, by decide⟩
theorem witness_MemoryWriters :
    let s := fetching (regs [(0, 0x77#8)]) 0xF055
    s.mem.wf ∧ step s = .next (run (regs [(0, 0x77#8)]) 0xF055) ∧
    (run (regs [(0, 0x77#8)]) 0xF055).mem.read 0 ≠ s.mem.read 0 := ⟨by decide, step_run _ _, by decide⟩
theorem witness_RegisterWriters :
    step (fetching State.reset 0x6005) = .next (run State.reset 0x6005) ∧
    (run State.reset 0x6005).getV 0 ≠ (fetching State.reset 0x6005).getV 0 := ⟨step_run _ _, by decide⟩
theorem witness_LatchIsClearedOnlyByReset :
    HostOp.step ≠ .reset ∧ halted.fault.cause ≠ .none ∧ HostOp.step.apply halted = .next halted := ⟨by decide, by decide, rfl⟩
theorem witness_OnlyRndReadsRandomByte :
    (∀ x nn, fetch (fetching State.reset 0x6005) ≠ some (encode (.rnd x nn))) ∧
    step (fetching State.reset 0x6005) = .next (run State.reset 0x6005) := by
  refine ⟨fun x nn h => ?_, step_run _ _⟩
  have hw : fetch (fetching State.reset 0x6005) = some 0x6005#16 := by decide
  rw [hw, Option.some.injEq] at h
  have := congrArg opField h
  rw [encode, opField_formatXNN] at this
  exact absurd this (by decide)
theorem witness_SoundTimerIsNotRead : step (fetching State.reset 0xF318) = .next (run State.reset 0xF318) := step_run _ _
theorem witness_StaleSlotsAreUnobservable :
    (∀ slot : Fin 16, slot.val < (deep 1).sp.val → ((deep 1).stack.set 1 0x0ABC#16)[slot] = (deep 1).stack[slot]) ∧
    step (fetching (deep 1) 0x00EE) = .next (run (deep 1) 0x00EE) := ⟨by decide, step_run _ _⟩

theorem witness_CallPushesAndJumps : (deep 15).sp.val < 16 ∧ (deep 16).sp.val = 16 := by decide
theorem witness_ReturnPopsPc :
    (deep 1).sp.val = (0 : Fin 16).val + 1 ∧ (deep 16).sp.val = (15 : Fin 16).val + 1 ∧ (deep 0).sp.val = 0 := by decide
theorem witness_CallThenReturn : (deep 0).sp.val < 16 ∧ (deep 15).sp.val < 16 := by decide
theorem witness_JumpToSelfNeverHalts :
    let s := fetching State.reset 0x1200
    s.halted = false ∧ s.pc.toNat = (0x200#12).toNat ∧ fetch s = some (encode (.jp 0x200#12)) := by decide

theorem witness_flag_arithmetic : (0 : Reg) ≠ VF ∧ (14 : Reg) ≠ VF ∧ (15 : Reg) = VF := by decide
theorem witness_StoreDecimalDigits :
    (indexed 0x0FFD#16).mem.wf ∧ (indexed 0x0FFD#16).i.toNat + 2 ≤ 0xFFF ∧ 0xFFF < (indexed 0x0FFE#16).i.toNat + 2 := by
  decide
theorem witness_StoreRegisters_and_LoadRegisters :
    (indexed 0x0FF0#16).mem.wf ∧ (indexed 0x0FF0#16).i.toNat + (15 : Reg).val ≤ 0xFFF ∧
    0xFFF < (indexed 0x0FF1#16).i.toNat + (15 : Reg).val := by decide
theorem witness_CanonicalMemoryIsUnique :
    Memory.wf [(0x300, 0x55#8)] ∧ Memory.write [(0x300, 0x55#8), (0x301, 0x66#8)] 0x301 0x00#8 = [(0x300, 0x55#8)] := by
  decide
theorem witness_StoredCodeRunsNext :
    let s := { regs [(0, 0x12#8), (1, 0x08#8)] with i := 0x0202#16 }
    s.mem.wf ∧ s.halted = false ∧ 1 ≤ (1 : Reg).val ∧ s.i = s.pc + 2 ∧ s.i.toNat + (1 : Reg).val ≤ 0xFFF ∧
    decodeWord (s.getV 0 ++ s.getV 1) = .ok (.jp 0x208#12) ∧ exec (.ldMiVx 1) s = .next (ran (.ldMiVx 1) s) :=
  ⟨by decide, by decide, by decide, by decide, by decide, by decide, exec_ran _ _⟩

theorem witness_DrawTogglesSpritePixels :
    ((0#4).toNat = 0 ∨ (indexed 0xFFFF#16).i.toNat + (0#4).toNat - 1 ≤ 0xFFF) ∧
    ((15#4).toNat = 0 ∨ (indexed 0x0FF1#16).i.toNat + (15#4).toNat - 1 ≤ 0xFFF) ∧
    (0 < (15#4).toNat ∧ 0xFFF < (indexed 0x0FF2#16).i.toNat + (15#4).toNat - 1) := by decide
theorem witness_DrawTwiceRestores :
    (0 : Reg) ≠ VF ∧ (1 : Reg) ≠ VF ∧ ((5#4).toNat = 0 ∨ State.reset.i.toNat + (5#4).toNat - 1 ≤ 0xFFF) ∧
    exec (.drw 0 1 5#4) State.reset = .next (ran (.drw 0 1 5#4) State.reset) ∧
    exec (.drw 0 1 5#4) (ran (.drw 0 1 5#4) State.reset) = .next (ran (.drw 0 1 5#4) (ran (.drw 0 1 5#4) State.reset)) :=
  ⟨by decide, by decide, by decide, exec_ran _ _, exec_ran _ _⟩
theorem witness_SecondDrawCollides :
    [0x80#8].length ≤ 15 ∧
    ∀ j < [0x80#8].length, ∀ i < 8, FrameBuffer.blank.pixel (63 + i) (31 + j) = false := by decide

theorem witness_KeySkips :
    (15 : Reg).val = ((regs [(5, 0x0F#8)]).getV 5).toNat ∧ 0x0F < ((regs [(5, 0x10#8)]).getV 5).toNat := by decide
theorem witness_WaitForKey :
    let s := keysDown [14, 15]
    ((14 : Reg).val ≤ 0xE ∧ s.k[(14 : Reg)] = true ∧ ∀ lower : Reg, lower.val < (14 : Reg).val → s.k[lower] = false) ∧
    ∀ key : Reg, key.val ≤ 0xE → (keysDown [15]).k[key] = false := by decide

theorem witness_LoadCopiesImage :
    State.reset.mem.wf ∧ (List.replicate 3584 0xAA#8).length ≤ 3584 ∧ 3584 < (List.replicate 3585 0xAA#8).length := by
  refine ⟨by decide, ?_, ?_⟩ <;> rw [List.length_replicate]
  decide

end Sys2Proof.Tests
end

/-! PROOFS. Every legal word is the encoding of what it decodes to (30_encoding.md R56). -/

namespace Sys2Proof

theorem encode_of_decodeSys {w : Word} {i : Instr} (h : decodeSys w = .ok i) : encode i = w := by
  unfold decodeSys at h
  split at h
  · next hw => cases h; exact hw.symm
  · split at h
    · next hw => cases h; exact hw.symm
    · cases h

theorem encode_of_decodeAlu {w : Word} {i : Instr} (hop : opField w = 0x8#4) (h : decodeAlu w = .ok i) :
    encode i = w := by
  have hw : formatXYN 0x8#4 (xField w) (yField w) (nField w) = w := hop ▸ formatXYN_fields w
  unfold decodeAlu at h
  split at h <;> cases h
  all_goals
    next hn => rw [hn] at hw; exact hw

theorem encode_of_decodeKey {w : Word} {i : Instr} (hop : opField w = 0xE#4) (h : decodeKey w = .ok i) :
    encode i = w := by
  have hw : formatXNN 0xE#4 (xField w) (nnField w) = w := hop ▸ formatXNN_fields w
  unfold decodeKey at h
  split at h <;> cases h
  all_goals
    next hnn => rw [hnn] at hw; exact hw

theorem encode_of_decodeMisc {w : Word} {i : Instr} (hop : opField w = 0xF#4) (h : decodeMisc w = .ok i) :
    encode i = w := by
  have hw : formatXNN 0xF#4 (xField w) (nnField w) = w := hop ▸ formatXNN_fields w
  unfold decodeMisc at h
  split at h <;> cases h
  all_goals
    next hnn => rw [hnn] at hw; exact hw

/-- A decoder loses no bit of a legal word: the op and the operand fields of the word's format make up the word. -/
theorem encode_of_decodeWord {w : Word} {i : Instr} (h : decodeWord w = .ok i) : encode i = w := by
  have hnnn := formatNNN_fields w
  have hxnn := formatXNN_fields w
  have hxyn := formatXYN_fields w
  unfold decodeWord at h
  split at h <;> rename_i hop
  case h_1 => exact encode_of_decodeSys h
  case h_9 => exact encode_of_decodeAlu hop h
  case h_15 => exact encode_of_decodeKey hop h
  case h_16 => exact encode_of_decodeMisc hop h
  case h_6 | h_10 =>
    split at h <;> cases h
    next hn => rw [hop, hn] at hxyn; exact hxyn
  case h_2 | h_3 | h_11 | h_12 => cases h; rw [hop] at hnnn; exact hnnn
  case h_4 | h_5 | h_7 | h_8 | h_13 => cases h; rw [hop] at hxnn; exact hxnn
  case h_14 => cases h; rw [hop] at hxyn; exact hxyn
  case h_17 => cases h

end Sys2Proof

/-! PROOFS. A cycle that does not fault, and what its instruction does to the timers (40_cycle.md R75). -/

namespace Sys2Proof.Machine

/-- A cycle that leaves the latch empty ran an instruction to its end: its effect on the advanced state, then the tick
(R72 to R75). -/
theorem step_completed {s t : State} (h : step s = .next t) (hnone : t.fault.cause = .none) :
    ∃ i, fetch s = some (encode i) ∧ completes i s ∧ t = (effect i s.advance).tick := by
  obtain ⟨hhalted, rfl⟩ | ⟨-, -, rfl⟩ | ⟨w, e, -, -, -, rfl⟩ | ⟨w, i, -, hfetch, hdecode, hexec⟩ := step_cases h
  · simp [State.halted, hnone] at hhalted
  · cases hnone
  · cases hnone
  · obtain ⟨hc, ht⟩ | ⟨-, rfl⟩ := exec_cases hexec
    · exact ⟨i, encode_of_decodeWord hdecode ▸ hfetch, hc, ht⟩
    · exact absurd hnone (faultCause_ne_none i)

@[simp] theorem State.drawSprite_dt (s : State) (x y : Reg) (n : Nat) : (s.drawSprite x y n).dt = s.dt := rfl
@[simp] theorem State.drawSprite_st (s : State) (x y : Reg) (n : Nat) : (s.drawSprite x y n).st = s.st := rfl

/-- Only `FX15` writes the delay timer (R18). -/
theorem effect_dt_of_ne_ldDtVx {i : Instr} (h : ∀ x, i ≠ .ldDtVx x) (s : State) : (effect i s).dt = s.dt := by
  cases i with
  | ldDtVx x => exact absurd rfl (h x)
  | ldVxK x => simp only [effect]; split <;> rfl
  | _ => simp [effect]

/-- Only `FX18` writes the sound timer (R19). -/
theorem effect_st_of_ne_ldStVx {i : Instr} (h : ∀ x, i ≠ .ldStVx x) (s : State) : (effect i s).st = s.st := by
  cases i with
  | ldStVx x => exact absurd rfl (h x)
  | ldVxK x => simp only [effect]; split <;> rfl
  | _ => simp [effect]

end Sys2Proof.Machine

namespace Sys2Proof.Claims

open Sys2Proof.Machine

/-- Settles O11: a cycle that leaves the latch empty is an instruction's effect and then the tick, and only `FX15` and
`FX18` write a timer in their effect. -/
theorem timersTickEachCompletedCycle : Obligations.TimersTickEachCompletedCycle := by
  intro s t hstep hnone
  obtain ⟨i, hfetch, -, rfl⟩ := step_completed hstep hnone
  refine ⟨i, hfetch, ?dt, ?st, ?read⟩
  case dt =>
    rw [State.tick_dt, tickByte_toNat]
    split
    · rfl
    · next hi => rw [effect_dt_of_ne_ldDtVx hi, State.advance_dt]
  case st =>
    rw [State.tick_st, tickByte_toNat]
    split
    · rfl
    · next hi => rw [effect_st_of_ne_ldStVx hi, State.advance_st]
  case read =>
    rintro x rfl
    simp [effect]

end Sys2Proof.Claims

/-! PROOFS. A completed cycle whose effect is a write of `pc`: the jump and the skips (41_control_flow.md R81, R89). -/

namespace Sys2Proof.Claims

open Sys2Proof.Machine

/-- A cycle that does nothing but write `pc` sets it to what was written, ticks the timers and keeps every other part. -/
theorem jumpCycle_setPc (s : State) (target : Word) : JumpCycle s (s.advance.setPc target).tick target := by
  refine ⟨rfl, ⟨tickByte_toNat s.dt, tickByte_toNat s.st⟩, fun p hp => ?_⟩
  cases p with
  | pc | timers => simp at hp
  | regs => exact fun _ => rfl
  | memory => exact fun _ => rfl
  | stack => exact ⟨rfl, rfl⟩
  | _ => rfl

/-- A skip is a write of `pc`, so its cycle moves `pc` by one or by two instructions, as the condition says (R89). -/
theorem jumpCycle_skipIf (s : State) (c : Bool) :
    JumpCycle s (s.advance.skipIf c).tick (if c then s.pc + 4 else s.pc + 2) := by
  cases c with
  | false => exact jumpCycle_setPc s (s.pc + 2)
  | true =>
    have two_instructions : s.pc + 2 + 2 = s.pc + 4 := BitVec.add_assoc s.pc 2 2
    exact two_instructions ▸ jumpCycle_setPc s (s.pc + 2 + 2)

/-- Settles O25: the jump always completes, and its effect is the write of the zero-extended NNN to `pc`. -/
theorem jumpSetsPc : Obligations.JumpSetsPc := by
  intro nnn s
  obtain ⟨hpc, hticked, hframe⟩ := jumpCycle_setPc s (zextAddr nnn)
  refine ⟨formatNNN_toNat 1 nnn, _, exec_of_completes trivial, ?_, hticked, hframe⟩
  exact (congrArg BitVec.toNat hpc).trans (zextAddr_toNat nnn)

/-- Settles O29: both skips always complete, and they are one skip under opposite conditions. -/
theorem immediateSkips : Obligations.ImmediateSkips := by
  intro x nn s
  refine ⟨formatXNN_toNat 3 x nn, formatXNN_toNat 4 x nn,
    ⟨_, exec_of_completes trivial, ?equal⟩, ⟨_, exec_of_completes trivial, ?differ⟩⟩
  case equal => simpa [effect] using jumpCycle_skipIf s (s.getV x == nn)
  case differ => simpa [effect] using jumpCycle_skipIf s (s.getV x != nn)

end Sys2Proof.Claims

/-! PROOFS. A completed cycle whose effect is a write of registers, and the instructions that write one register and no
flag (42_alu.md R91 to R96). -/

namespace Sys2Proof.Claims

open Sys2Proof.Machine

/-- Whatever a cycle writes to the registers, it moves `pc` to the next instruction, ticks the timers and keeps every
other part. -/
theorem registerCycle_with_v (s : State) (regs : Vector Byte 16) :
    RegisterCycle s (State.tick { s.advance with v := regs }) := by
  refine ⟨rfl, ⟨tickByte_toNat s.dt, tickByte_toNat s.st⟩, fun p hp => ?_⟩
  cases p with
  | regs | pc | timers => simp at hp
  | memory => exact fun _ => rfl
  | stack => exact ⟨rfl, rfl⟩
  | _ => rfl

/-- An instruction that completes and whose effect is a write of one register leaves the value written there and touches
no other register, VF included. -/
theorem exec_of_effect_setV {i : Instr} {s : State} {x : Reg} {b : Byte} (hc : completes i s)
    (heffect : effect i s.advance = s.advance.setV x b) :
    ∃ t, exec i s = .next t ∧ t.getV x = b ∧ RegsBut s t x ∧ RegisterCycle s t := by
  refine ⟨(s.advance.setV x b).tick, heffect ▸ exec_of_completes hc, ?written, ?others, registerCycle_with_v s _⟩
  case written => simp
  case others =>
    intro r hr
    simp [hr]

/-- Settles O33: both instructions always complete and write one register, and byte addition is addition modulo 256. -/
theorem loadAndAddImmediate : Obligations.LoadAndAddImmediate := by
  intro x nn s
  refine ⟨formatXNN_toNat 6 x nn, formatXNN_toNat 7 x nn, exec_of_effect_setV trivial rfl, ?add⟩
  case add =>
    obtain ⟨t, hexec, hsum, hframe⟩ := exec_of_effect_setV (i := .addVxNn x nn) (s := s) trivial rfl
    exact ⟨t, hexec, hsum ▸ BitVec.toNat_add (s.getV x) nn, hframe⟩

/-- Settles O34: the four instructions always complete and write one register, and each byte operation acts bit by bit. -/
theorem moveAndLogic : Obligations.MoveAndLogic := by
  intro x y s
  refine ⟨formatXYN_toNat 8 x y 0, formatXYN_toNat 8 x y 1, formatXYN_toNat 8 x y 2, formatXYN_toNat 8 x y 3,
    exec_of_effect_setV trivial rfl, ?or, ?and, ?xor⟩
  case or =>
    obtain ⟨t, hexec, hor, hframe⟩ := exec_of_effect_setV (i := .orVxVy x y) (s := s) trivial rfl
    exact ⟨t, hexec, fun _ => hor ▸ BitVec.getLsbD_or, hframe⟩
  case and =>
    obtain ⟨t, hexec, hand, hframe⟩ := exec_of_effect_setV (i := .andVxVy x y) (s := s) trivial rfl
    exact ⟨t, hexec, fun _ => hand ▸ BitVec.getLsbD_and, hframe⟩
  case xor =>
    obtain ⟨t, hexec, hxor, hframe⟩ := exec_of_effect_setV (i := .xorVxVy x y) (s := s) trivial rfl
    exact ⟨t, hexec, fun _ => hxor ▸ BitVec.getLsbD_xor, hframe⟩

end Sys2Proof.Claims

/-! PROOFS. A completed cycle whose effect is a write of the index register (43_index_memory.md R110). -/

namespace Sys2Proof.Claims

open Sys2Proof.Machine

/-- An instruction that completes and whose effect is a write of `I` leaves the value written there, moves `pc` to the
next instruction, ticks the timers and keeps every other part. -/
theorem exec_of_effect_setI {i : Instr} {s : State} {w : Word} (hc : completes i s)
    (heffect : effect i s.advance = s.advance.setI w) :
    ∃ t, exec i s = .next t ∧ t.i = w ∧ t.pc = s.pc + 2 ∧ Ticked s t ∧ OnlyChanges s t [.index, .pc, .timers] := by
  refine ⟨(s.advance.setI w).tick, heffect ▸ exec_of_completes hc, rfl, rfl,
    ⟨tickByte_toNat s.dt, tickByte_toNat s.st⟩, fun p hp => ?_⟩
  cases p with
  | index | pc | timers => simp at hp
  | regs => exact fun _ => rfl
  | memory => exact fun _ => rfl
  | stack => exact ⟨rfl, rfl⟩
  | _ => rfl

/-- Settles O39: the load always completes, and its effect is the write of the zero-extended NNN to `I`. -/
theorem loadIndex : Obligations.LoadIndex := by
  intro nnn s
  obtain ⟨t, hexec, hi, hframe⟩ := exec_of_effect_setI (i := .ldINnn nnn) (s := s) trivial rfl
  exact ⟨formatNNN_toNat 0xA nnn, t, hexec, hi ▸ zextAddr_toNat nnn, hframe⟩

end Sys2Proof.Claims

/-! PROOFS. A completed cycle whose effect is a write of the framebuffer: the clear (44_display.md R122, R123). -/

namespace Sys2Proof.Claims

open Sys2Proof.Machine

/-- A cycle that does nothing but replace the framebuffer changes no part but the display, `pc` and the timers. -/
theorem onlyChanges_setFb (s : State) (f : FrameBuffer) :
    OnlyChanges s (s.advance.setFb f).tick [.display, .pc, .timers] := by
  intro p hp
  cases p with
  | display | pc | timers => simp at hp
  | regs => exact fun _ => rfl
  | memory => exact fun _ => rfl
  | stack => exact ⟨rfl, rfl⟩
  | _ => rfl

/-- Settles O46: the clear always completes, and its effect is to replace the framebuffer by the blank one. -/
theorem clearTurnsEveryPixelOff : Obligations.ClearTurnsEveryPixelOff := by
  intro s
  refine ⟨rfl, (s.advance.setFb FrameBuffer.blank).tick, exec_of_completes (i := .cls) trivial, ?off, rfl,
    ⟨tickByte_toNat s.dt, tickByte_toNat s.st⟩, onlyChanges_setFb s FrameBuffer.blank⟩
  case off => exact FrameBuffer.pixel_blank

end Sys2Proof.Claims

/-! PROOFS. The delay and sound timers: reading one before the tick, and setting one that the same cycle's tick counts
down (45_keys_timers.md R133 to R135). -/

namespace Sys2Proof.Claims

open Sys2Proof.Machine

/-- Settles O52: the read always completes, and its effect writes the timer, not yet ticked, to one register. -/
theorem readDelayTimer : Obligations.ReadDelayTimer := by
  intro x s
  exact ⟨formatXNN_toNat 0xF x 0x07, exec_of_effect_setV trivial rfl⟩

/-- Whatever a cycle writes to the timers, it changes no part but them and `pc`. -/
theorem onlyChanges_with_timers (s : State) (delay sound : Byte) :
    OnlyChanges s { s.advance with dt := delay, st := sound } [.timers, .pc] := by
  intro p hp
  cases p with
  | timers | pc => simp at hp
  | regs => exact fun _ => rfl
  | memory => exact fun _ => rfl
  | stack => exact ⟨rfl, rfl⟩
  | _ => rfl

/-- Settles O53: both instructions always complete, and the tick counts down the value just written as it does the other
timer. -/
theorem setTimers : Obligations.SetTimers := by
  intro x s
  refine ⟨formatXNN_toNat 0xF x 0x15, formatXNN_toNat 0xF x 0x18,
    ⟨_, exec_of_completes trivial, ?delay⟩, ⟨_, exec_of_completes trivial, ?sound⟩⟩
  case delay => exact ⟨tickByte_toNat (s.getV x), tickByte_toNat s.st, rfl, onlyChanges_with_timers s _ _⟩
  case sound => exact ⟨tickByte_toNat (s.getV x), tickByte_toNat s.dt, rfl, onlyChanges_with_timers s _ _⟩

end Sys2Proof.Claims

/-! PROOFS. The key flags under the host's operations (45_keys_timers.md R136). -/

namespace Sys2Proof.Machine

/-- Writing one key flag is seen at that key and at no other. -/
theorem Keys.getElem_set (keys : Keys) (key q : Reg) (b : Bool) :
    (keys.set key b)[q] = if q = key then b else keys[q] := by
  simp only [Fin.getElem_fin, Vector.getElem_set, Fin.ext_iff, eq_comm (a := key.val)]

@[simp] theorem State.pressed_press (s : State) (key q : Reg) :
    (s.press key).pressed q = if q = key then true else s.pressed q :=
  Keys.getElem_set s.k key q true

@[simp] theorem State.pressed_release (s : State) (key q : Reg) :
    (s.release key).pressed q = if q = key then false else s.pressed q :=
  Keys.getElem_set s.k key q false

@[simp] theorem State.pressed_hostReset (s : State) (q : Reg) : s.hostReset.pressed q = false :=
  Vector.getElem_replicate q.isLt

end Sys2Proof.Machine

namespace Sys2Proof.Claims

open Sys2Proof.Machine

/-- Whatever is written to the key flags, no other part changes. -/
theorem onlyChanges_with_k (s : State) (keys : Keys) : OnlyChanges s { s with k := keys } [.keys] := by
  intro p hp
  cases p with
  | keys => simp at hp
  | regs => exact fun _ => rfl
  | memory => exact fun _ => rfl
  | stack | timers => exact ⟨rfl, rfl⟩
  | _ => rfl

/-- Settles O57: press and release are each a write of one key flag, and reset replaces all sixteen. -/
theorem keyOperations : Obligations.KeyOperations := by
  intro s key
  exact ⟨s.pressed_press key, s.pressed_release key, s.pressed_hostReset,
    onlyChanges_with_k s _, onlyChanges_with_k s _⟩

end Sys2Proof.Claims

/-! PROOFS. Decoding inverts encoding, and what that says of the rows of the opcode table and of the illegal words
(30_encoding.md R50 to R57). -/

namespace Sys2Proof

/-- Decoding an encoded instruction gives it back: the fields of the word its format builds are its operands. -/
theorem decodeWord_encode (i : Instr) : decodeWord (encode i) = .ok i := by
  cases i with
  | cls | ret => rfl
  | ldVxVy | orVxVy | andVxVy | xorVxVy | addVxVy | sub | shr | subn | shl => simp [encode, decodeWord, decodeAlu]
  | skp | sknp => simp [encode, decodeWord, decodeKey]
  | ldVxDt | ldVxK | ldDtVx | ldStVx | addIVx | ldFVx | ldBVx | ldMiVx | ldVxMi =>
    simp [encode, decodeWord, decodeMisc]
  | _ => simp [encode, decodeWord]

/-- Decoding and encoding are inverse to each other. -/
theorem decodeWord_eq_ok {w : Word} {i : Instr} : decodeWord w = .ok i ↔ encode i = w :=
  ⟨encode_of_decodeWord, fun h => h ▸ decodeWord_encode i⟩

/-- Different instructions have different words. -/
@[simp] theorem encode_inj {i j : Instr} : encode i = encode j ↔ i = j := by
  rw [← decodeWord_eq_ok, decodeWord_encode, Except.ok.injEq, eq_comm]

/-- The word of an instruction matches the instruction's row of R56. -/
theorem encode_and_mask (i : Instr) : encode i &&& i.row.mask = i.row.pattern := by
  cases i with
  | cls | ret => rfl
  | jp | call | ldINnn | jpV0 => exact formatNNN_and_op ..
  | seVxNn | sneVxNn | ldVxNn | addVxNn | rnd => exact formatXNN_and_op ..
  | drw => exact formatXYN_and_op ..
  | skp | sknp | ldVxDt | ldVxK | ldDtVx | ldStVx | addIVx | ldFVx | ldBVx | ldMiVx | ldVxMi =>
    exact formatXNN_and_opNN ..
  | _ => exact formatXYN_and_opN ..

/-! ## The literal digits a mask compares -/

theorem opField_eq_of_and_op {w u : Word} (h : w &&& 0xF000#16 = u &&& 0xF000#16) : opField w = opField u := by
  have hfields := congrArg opField h
  rw [← formatNNN_fields w, ← formatNNN_fields u, formatNNN_and_op, formatNNN_and_op] at hfields
  simpa using hfields

theorem fields_eq_of_and_opN {w u : Word} (h : w &&& 0xF00F#16 = u &&& 0xF00F#16) :
    opField w = opField u ∧ nField w = nField u := by
  rw [← formatXYN_fields w, ← formatXYN_fields u, formatXYN_and_opN, formatXYN_and_opN] at h
  exact ⟨by simpa using congrArg opField h, by simpa using congrArg nField h⟩

theorem fields_eq_of_and_opNN {w u : Word} (h : w &&& 0xF0FF#16 = u &&& 0xF0FF#16) :
    opField w = opField u ∧ nnField w = nnField u := by
  rw [← formatXNN_fields w, ← formatXNN_fields u, formatXNN_and_opNN, formatXNN_and_opNN] at h
  exact ⟨by simpa using congrArg opField h, by simpa using congrArg nnField h⟩

/-- A word that matches a row agrees in the literal digits with the words of the row's instructions, so it decodes to an
instruction of that row. -/
theorem exists_decodeWord_of_row {w : Word} {j : Instr} (h : w &&& j.row.mask = j.row.pattern) :
    ∃ i, decodeWord w = .ok i ∧ i.row = j.row := by
  have hagree : w &&& j.row.mask = encode j &&& j.row.mask := h.trans (encode_and_mask j).symm
  cases j with
  | cls | ret =>
    obtain rfl := (show w &&& 0xFFFF#16 = w from BitVec.and_allOnes).symm.trans h
    exact ⟨_, rfl, rfl⟩
  | jp | call | seVxNn | sneVxNn | ldVxNn | addVxNn | ldINnn | jpV0 | rnd | drw =>
    have hop := opField_eq_of_and_op hagree
    simp only [encode, opField_formatNNN, opField_formatXNN, opField_formatXYN] at hop
    simp [decodeWord, hop, Instr.row]
  | skp | sknp | ldVxDt | ldVxK | ldDtVx | ldStVx | addIVx | ldFVx | ldBVx | ldMiVx | ldVxMi =>
    obtain ⟨hop, hnn⟩ := fields_eq_of_and_opNN hagree
    simp only [encode, opField_formatXNN, nnField_formatXNN] at hop hnn
    simp [decodeWord, decodeKey, decodeMisc, hop, hnn, Instr.row]
  | _ =>
    obtain ⟨hop, hn⟩ := fields_eq_of_and_opN hagree
    simp only [encode, opField_formatXYN, nField_formatXYN] at hop hn
    simp [decodeWord, decodeAlu, hop, hn, Instr.row]

/-! ## Illegal words -/

/-- The table of R57 in terms of the fields of the word. -/
theorem illegalWord_eq_true {w : Word} :
    illegalWord w = true ↔
      (opField w = 0x0#4 ∧ w ≠ 0x00E0#16 ∧ w ≠ 0x00EE#16) ∨
      (opField w = 0x5#4 ∧ nField w ≠ 0x0#4) ∨
      (opField w = 0x8#4 ∧ nField w ∈ [0x8#4, 0x9#4, 0xA#4, 0xB#4, 0xC#4, 0xD#4, 0xF#4]) ∨
      (opField w = 0x9#4 ∧ nField w ≠ 0x0#4) ∨
      (opField w = 0xE#4 ∧ nnField w ∉ [0x9E#8, 0xA1#8]) ∨
      (opField w = 0xF#4 ∧ nnField w ∉ [0x07#8, 0x0A#8, 0x15#8, 0x18#8, 0x1E#8, 0x29#8, 0x33#8, 0x55#8, 0x65#8]) := by
  simp [illegalWord, ← opField_toNat, ← nField_toNat, ← nnField_toNat, ← BitVec.toNat_inj (x := opField w),
    ← BitVec.toNat_inj (x := nField w), ← BitVec.toNat_inj (x := nnField w), and_assoc, or_assoc]

/-- The word of an instruction is no illegal word. -/
theorem illegalWord_encode (i : Instr) : illegalWord (encode i) = false := by
  rw [Bool.eq_false_iff, ne_eq, illegalWord_eq_true]
  cases i with
  | cls | ret => decide
  | _ => simp [encode]

theorem decodeSys_eq_error {w : Word} {e : DecodeError} (h : decodeSys w = .error e) :
    e = .unknownOpcode w ∧ w ≠ 0x00E0#16 ∧ w ≠ 0x00EE#16 := by
  unfold decodeSys at h
  split at h
  · cases h
  · split at h <;> cases h
    exact ⟨rfl, ‹_›, ‹_›⟩

theorem decodeAlu_eq_error {w : Word} {e : DecodeError} (h : decodeAlu w = .error e) :
    e = .unknownOpcode w ∧ nField w ∈ [0x8#4, 0x9#4, 0xA#4, 0xB#4, 0xC#4, 0xD#4, 0xF#4] := by
  unfold decodeAlu at h
  split at h <;> cases h
  refine ⟨rfl, ?_⟩
  simp only [List.mem_cons, List.not_mem_nil, imp_false] at *
  bv_omega

theorem decodeKey_eq_error {w : Word} {e : DecodeError} (h : decodeKey w = .error e) :
    e = .unknownOpcode w ∧ nnField w ∉ [0x9E#8, 0xA1#8] := by
  unfold decodeKey at h
  split at h <;> cases h
  simp_all

theorem decodeMisc_eq_error {w : Word} {e : DecodeError} (h : decodeMisc w = .error e) :
    e = .unknownOpcode w ∧
      nnField w ∉ [0x07#8, 0x0A#8, 0x15#8, 0x18#8, 0x1E#8, 0x29#8, 0x33#8, 0x55#8, 0x65#8] := by
  unfold decodeMisc at h
  split at h <;> cases h
  simp_all

/-- A word the decoder rejects is one of the table of R57, and the rejection names it. -/
theorem illegalWord_of_decodeWord_error {w : Word} {e : DecodeError} (h : decodeWord w = .error e) :
    e = .unknownOpcode w ∧ illegalWord w = true := by
  rw [illegalWord_eq_true]
  unfold decodeWord at h
  split at h <;> rename_i hop
  case h_1 => exact (decodeSys_eq_error h).imp_right fun hw => .inl ⟨hop, hw⟩
  case h_9 => exact (decodeAlu_eq_error h).imp_right fun hn => .inr (.inr (.inl ⟨hop, hn⟩))
  case h_15 => exact (decodeKey_eq_error h).imp_right fun hnn => by simp_all
  case h_16 => exact (decodeMisc_eq_error h).imp_right fun hnn => by simp_all
  case h_6 | h_10 =>
    split at h <;> cases h
    next hn => simp [hop, hn]
  case h_17 =>
    simp only [imp_false] at *
    bv_omega
  all_goals cases h

/-- The decoder rejects a word, by name, exactly when it is illegal. -/
theorem decodeWord_eq_error {w : Word} {e : DecodeError} :
    decodeWord w = .error e ↔ e = .unknownOpcode w ∧ illegalWord w = true := by
  refine ⟨illegalWord_of_decodeWord_error, ?_⟩
  rintro ⟨rfl, hill⟩
  cases hdec : decodeWord w with
  | ok i => simp [← encode_of_decodeWord hdec, illegalWord_encode] at hill
  | error e => rw [(illegalWord_of_decodeWord_error hdec).1]

end Sys2Proof

namespace Sys2Proof.Claims

open Sys2Proof.Machine

/-- Settles O1: the two bytes of an instruction make up its word, and the decoder inverts the encoder on every word. -/
theorem decodeOfEncode : Obligations.DecodeOfEncode := by
  intro i rest
  show (decodeWord (wordOfBytes (hiByte (encode i)) (loByte (encode i)))).map _ = _
  rw [wordOfBytes_bytes, decodeWord_encode]
  rfl

/-- Settles O2: the encoder inverts the decoder on every word that decodes. -/
theorem encodeOfDecode : Obligations.EncodeOfDecode := fun _ _ => encode_of_decodeWord

/-- Settles O3: the word of an instruction matches the row of the instruction, and matching a row fixes the literal
digits the decoder looks at. -/
theorem wordSelectsItsRow : Obligations.WordSelectsItsRow :=
  ⟨fun _ i h => encode_of_decodeWord h ▸ encode_and_mask i, fun _ _ => exists_decodeWord_of_row⟩

/-- Settles O4: the words of instructions are legal, and the decoder rejects only illegal words. -/
theorem illegalWordsAreRejected : Obligations.IllegalWordsAreRejected := by
  intro w
  constructor
  · simp [decodeWord_eq_error]
  · constructor
    · intro hlegal
      cases hdec : decodeWord w with
      | ok i => exact ⟨i, rfl⟩
      | error e => simp [(decodeWord_eq_error.mp hdec).2] at hlegal
    · rintro ⟨i, hdec⟩
      rw [← encode_of_decodeWord hdec, illegalWord_encode]

/-- Settles O5: each word is the encoding of its instruction. -/
theorem writtenWordsDecode : Obligations.WrittenWordsDecode := by
  unfold Obligations.WrittenWordsDecode
  simp only [decodeWord_eq_ok]
  decide

end Sys2Proof.Claims

/-! PROOFS. One step of the core: which instruction it runs, that it always answers a next state, and that it changes
the latch alone unless the fetched instruction completes (40_cycle.md R71 to R79). -/

namespace Sys2Proof.Machine

theorem State.halted_eq_false {s : State} : s.halted = false ↔ s.fault.cause = .none := by
  simp [State.halted]

/-- A halted core's step changes nothing (R77). -/
theorem step_of_halted {s : State} (h : s.halted = true) : step s = .next s := if_pos h

/-- A step with `pc` above 0xFFE is a fetch fault (R71). -/
theorem step_of_fetch_none {s : State} (hrun : s.halted = false) (hfetch : fetch s = none) : step s = fetchFault s := by
  simp [step, hrun, hfetch]

/-- A step that fetches a word with no meaning is the cycle of an illegal word (R74). -/
theorem step_of_illegal {s : State} {w : Word} (hrun : s.halted = false) (hfetch : fetch s = some w)
    (hill : illegalWord w = true) : step s = illegalCycle w s := by
  simp [step, hrun, hfetch, decodeWord_eq_error.mpr ⟨rfl, hill⟩]

/-- A step that fetches an instruction's word is that instruction's cycle (R74). -/
theorem step_of_instr {s : State} {i : Instr} (hrun : s.halted = false) (hfetch : fetch s = some (encode i)) :
    step s = exec i s := by
  simp [step, hrun, hfetch, decodeWord_encode]

/-- A cycle of an instruction always answers a next state (R79). -/
theorem exec_total (i : Instr) (s : State) : ∃ t, exec i s = .next t :=
  (completes_or_not i s).elim (fun h => ⟨_, exec_of_completes h⟩) fun h => ⟨_, exec_of_not_completes h⟩

/-- What `fetch` can find: nothing, an illegal word, or the word of an instruction. -/
theorem fetch_cases (s : State) :
    fetch s = none ∨ (∃ w, fetch s = some w ∧ illegalWord w = true) ∨ ∃ i, fetch s = some (encode i) := by
  cases hfetch : fetch s with
  | none => exact .inl rfl
  | some w =>
    cases hdec : decodeWord w with
    | error e => exact .inr (.inl ⟨w, rfl, (decodeWord_eq_error.mp hdec).2⟩)
    | ok i => exact .inr (.inr ⟨i, by rw [encode_of_decodeWord hdec]⟩)

/-- A step always answers a next state (R79). -/
theorem step_total (s : State) : ∃ t, step s = .next t := by
  cases hrun : s.halted with
  | true => exact ⟨s, step_of_halted hrun⟩
  | false =>
    obtain hfetch | ⟨w, hfetch, hill⟩ | ⟨i, hfetch⟩ := fetch_cases s
    · exact ⟨_, step_of_fetch_none hrun hfetch⟩
    · exact ⟨_, step_of_illegal hrun hfetch hill⟩
    · exact step_of_instr hrun hfetch ▸ exec_total i s

/-- A step of a core that is not halted latches a fault and does nothing else, or completes the fetched instruction. -/
theorem step_faults_or_completes {s t : State} (hrun : s.halted = false) (h : step s = .next t) :
    (t.fault.cause ≠ .none ∧ t = { s with fault := t.fault }) ∨
    ∃ i, fetch s = some (encode i) ∧ completes i s ∧ t = (effect i s.advance).tick := by
  by_cases hnone : t.fault.cause = .none
  · exact .inr (step_completed h hnone)
  · refine .inl ⟨hnone, ?_⟩
    obtain ⟨hhalted, -⟩ | ⟨-, -, rfl⟩ | ⟨w, e, -, -, -, rfl⟩ | ⟨w, i, -, -, -, hexec⟩ := step_cases h
    · simp [hrun] at hhalted
    · rfl
    · rfl
    · obtain ⟨-, rfl⟩ | ⟨-, rfl⟩ := exec_cases hexec
      · rw [State.tick_fault, effect_fault] at hnone
        exact absurd (State.halted_eq_false.mp hrun) hnone
      · rfl

/-- Whatever the core's state, a step changes the latch alone or completes the fetched instruction. -/
theorem step_latches_or_completes {s t : State} (h : step s = .next t) :
    t = { s with fault := t.fault } ∨
    ∃ i, fetch s = some (encode i) ∧ completes i s ∧ t = (effect i s.advance).tick := by
  cases hrun : s.halted with
  | true =>
    obtain rfl : s = t := by simpa [step_of_halted hrun] using h
    exact .inl rfl
  | false => exact (step_faults_or_completes hrun h).imp_left And.right

/-- `LOAD` writes memory alone (R176, R177). -/
theorem State.load_fst (s : State) (bytes : List Byte) :
    (s.load bytes).1 = { s with mem := (s.load bytes).1.mem } := by
  unfold State.load
  split <;> rfl

end Sys2Proof.Machine

namespace Sys2Proof.Claims

open Sys2Proof.Machine

/-- Settles O6: the decoder reads from the two bytes at `pc` the instruction whose word is fetched there. -/
theorem stepRunsDecodedInstruction : Obligations.StepRunsDecodedInstruction := by
  intro s i hrun hpc hdecode
  refine step_of_instr hrun (fetch_eq_some.mpr ⟨hpc, ?_⟩)
  cases hdec : decodeWord (wordOfBytes (s.mem.read s.pc.toNat) (s.mem.read (s.pc.toNat + 1))) with
  | error e => simp [decode, hdec, Except.map] at hdecode
  | ok j =>
    obtain rfl : j = i := by simpa [decode, hdec, Except.map] using hdecode
    exact (encode_of_decodeWord hdec).symm

/-- Settles O7: above 0xFFE there is no word to fetch. -/
theorem fetchAboveMemoryFaults : Obligations.FetchAboveMemoryFaults :=
  fun _ hrun hpc => step_of_fetch_none hrun (fetch_eq_none.mpr hpc)

/-- Settles O8: the fetched word is the two bytes at `pc`, and the decoder rejects it. -/
theorem illegalWordFaults : Obligations.IllegalWordFaults :=
  fun _ hrun hpc hill => step_of_illegal hrun (fetch_eq_some.mpr ⟨hpc, rfl⟩) hill

/-- Settles O9: a step always answers a next state, and it changes the latch alone or completes an instruction, whose
effect keeps the latch. -/
theorem cycleOutcomes : Obligations.CycleOutcomes := by
  intro s
  constructor
  · intro hcause
    exact step_of_halted (by simpa [State.halted] using hcause)
  · intro hcause
    have hrun := State.halted_eq_false.mpr hcause
    obtain ⟨t, hstep⟩ := step_total s
    refine ⟨t, hstep, (step_faults_or_completes hrun hstep).imp_right ?_⟩
    rintro ⟨i, hfetch, hc, rfl⟩
    exact ⟨effect_fault i s.advance, i, hfetch, exec_of_completes hc⟩

/-- Settles O16: a fault changes the latch alone, and no instruction's effect writes a key flag. -/
theorem cyclesKeepKeys : Obligations.CyclesKeepKeys := by
  intro s t hstep
  obtain ht | ⟨i, -, -, rfl⟩ := step_latches_or_completes hstep
  · rw [ht]
  · exact effect_k i s.advance

/-- Settles O21: no host operation but `RESET` and a step writes the latch, and the step of a halted core is idle. -/
theorem latchIsClearedOnlyByReset : Obligations.LatchIsClearedOnlyByReset := by
  intro op s t hreset hcause h
  cases op with
  | reset => exact absurd rfl hreset
  | press key | release key => cases h; rfl
  | load bytes =>
    cases h
    rw [State.load_fst]
  | step =>
    have hidle : step s = .next s := step_of_halted (by simpa [State.halted] using hcause)
    obtain rfl : s = t := by simpa [HostOp.apply, hidle] using h
    rfl

end Sys2Proof.Claims

/-! PROOFS. Which instruction may write which part of the state: registers, stack, framebuffer and memory
(10_state.md R11 to R22). -/

namespace Sys2Proof.Machine

@[simp] theorem State.drawSprite_stack (s : State) (x y : Reg) (n : Nat) : (s.drawSprite x y n).stack = s.stack := rfl
@[simp] theorem State.drawSprite_sp (s : State) (x y : Reg) (n : Nat) : (s.drawSprite x y n).sp = s.sp := rfl
@[simp] theorem State.drawSprite_mem (s : State) (x y : Reg) (n : Nat) : (s.drawSprite x y n).mem = s.mem := rfl

/-- The sprite instruction writes VF and no other register. -/
theorem State.getV_drawSprite (s : State) (x y : Reg) (n : Nat) {r : Reg} (h : r ≠ VF) :
    (s.drawSprite x y n).getV r = s.getV r := by
  simp [State.drawSprite, h]

/-- Only `00E0` and `DXYN` write the framebuffer (R20). -/
theorem effect_fb {i : Instr} (hcls : i ≠ .cls) (hdrw : ∀ x y n, i ≠ .drw x y n) (s : State) :
    (effect i s).fb = s.fb := by
  cases i with
  | cls => exact absurd rfl hcls
  | drw x y n => exact absurd rfl (hdrw x y n)
  | ldVxK x => simp only [effect]; split <;> rfl
  | _ => simp [effect]

/-- Only `FX33` and `FX55` write memory (R32). -/
theorem effect_mem {i : Instr} (hdigits : ∀ x, i ≠ .ldBVx x) (hregs : ∀ x, i ≠ .ldMiVx x) (s : State) :
    (effect i s).mem = s.mem := by
  cases i with
  | ldBVx x => exact absurd rfl (hdigits x)
  | ldMiVx x => exact absurd rfl (hregs x)
  | ldVxK x => simp only [effect]; split <;> rfl
  | _ => simp [effect]

/-- Only `2NNN` writes a stack slot (R16). -/
theorem effect_stack {i : Instr} (hcall : ∀ nnn, i ≠ .call nnn) (s : State) : (effect i s).stack = s.stack := by
  cases i with
  | call nnn => exact absurd rfl (hcall nnn)
  | ldVxK x => simp only [effect]; split <;> rfl
  | _ => simp [effect]

/-- Only `2NNN` and `00EE` write the stack pointer (R17). -/
theorem effect_sp {i : Instr} (hcall : ∀ nnn, i ≠ .call nnn) (hret : i ≠ .ret) (s : State) :
    (effect i s).sp = s.sp := by
  cases i with
  | call nnn => exact absurd rfl (hcall nnn)
  | ret => exact absurd rfl hret
  | ldVxK x => simp only [effect]; split <;> rfl
  | _ => simp [effect]

/-- A register the instruction may not write keeps its value (R11, R12). -/
theorem effect_getV {i : Instr} {r : Reg} (h : ¬ Claims.mayWrite i r) (s : State) :
    (effect i s).getV r = s.getV r := by
  cases i with
  | drw x y n => exact s.getV_drawSprite x y n.toNat h
  | addVxVy | sub | subn | shr | shl =>
    obtain ⟨hx, hflag⟩ := not_or.mp h
    simp [effect, hx, hflag]
  | ldVxK x =>
    have hx : r ≠ x := h
    simp only [effect]
    split <;> simp [hx]
  | _ => simp_all [effect, Claims.mayWrite]

/-- A call writes the slot `sp` and no other (R82). -/
theorem State.getElem_stack_push (s : State) (w : Word) (slot : Fin 16) :
    (s.push w).stack[slot] = if slot.val = s.sp.val then w else s.stack[slot] := by
  simp [Vector.getElem_setIfInBounds, eq_comm]

/-- A call with a free slot raises `sp` by one (R82). -/
theorem State.sp_push {s : State} (h : s.sp.val < 16) (w : Word) : (s.push w).sp.val = s.sp.val + 1 := by
  simp only [State.push_sp]
  omega

/-- Bytes stored are read back in order (R37, R41). -/
theorem Memory.read_storeBytes_at {m : Memory} (h : m.wf) {a : Nat} {bs : List Byte} (ha : InMemory a bs.length)
    {k : Nat} (hk : k < bs.length) : bs[k]? = some ((m.storeBytes a bs).read (a + k)) := by
  rw [Memory.read_storeBytes h ha, if_neg (by omega), Nat.add_sub_cancel_left, List.getElem?_eq_getElem hk,
    Option.getD_some]

/-- Storing bytes changes no byte outside the range stored (R37). -/
theorem Memory.read_storeBytes_outside {m : Memory} (h : m.wf) {a : Nat} {bs : List Byte} (ha : InMemory a bs.length)
    {q : Nat} (hq : ∀ k < bs.length, q ≠ a + k) : (m.storeBytes a bs).read q = m.read q := by
  rw [Memory.read_storeBytes h ha]
  split
  · rfl
  · next hlow =>
    rw [List.getElem?_eq_none, Option.getD_none]
    by_contra hlen
    exact hq (q - a) (by omega) (by omega)

end Sys2Proof.Machine

namespace Sys2Proof.Claims

open Sys2Proof.Machine

/-- Settles O17: only a call and a return touch stack or `sp`, and each completes only with a slot free or in use. -/
theorem stackDiscipline : Obligations.StackDiscipline := by
  intro s t hstep
  obtain ht | ⟨i, hfetch, hc, rfl⟩ := step_latches_or_completes hstep
  · rw [ht]
    exact .inr (.inr ⟨rfl, rfl⟩)
  · by_cases hcall : ∃ nnn, i = .call nnn
    · obtain ⟨nnn, rfl⟩ := hcall
      have hfree : s.sp.val < 16 := Nat.lt_of_le_of_ne (Nat.le_of_lt_succ s.sp.isLt) hc
      exact .inl ⟨nnn, hfetch, State.sp_push hfree (s.pc + 2), s.getElem_stack_push (s.pc + 2)⟩
    · by_cases hret : i = .ret
      · subst hret
        exact .inr (.inl ⟨hfetch, Nat.sub_add_cancel (Nat.pos_of_ne_zero hc), rfl⟩)
      · exact .inr (.inr ⟨effect_sp (not_exists.mp hcall) hret _, effect_stack (not_exists.mp hcall) _⟩)

/-- Settles O18: a fault keeps the framebuffer, and so does the effect of every other instruction. -/
theorem displayWriters : Obligations.DisplayWriters := by
  intro s t hstep hchanged
  obtain ht | ⟨i, hfetch, -, rfl⟩ := step_latches_or_completes hstep
  · exact absurd (ht ▸ rfl) hchanged
  · by_contra! hother
    obtain ⟨hcls, hdrw⟩ := hother
    refine hchanged (effect_fb ?_ ?_ s.advance)
    · rintro rfl; exact hcls hfetch
    · rintro x y n rfl; exact hdrw x y n hfetch

/-- A store through `I` that lies in memory changes no byte outside its range. -/
theorem exists_of_storeBytes_read_ne {s : State} (hwf : s.mem.wf) {bs : List Byte}
    (hin : InMemory s.i.toNat bs.length) {a : Nat}
    (h : (s.mem.storeBytes (s.dataAddr 0) bs).read a ≠ s.mem.read a) : ∃ k < bs.length, a = s.dataAddr k := by
  by_contra! houtside
  exact h (Memory.read_storeBytes_outside hwf hin houtside)

/-- Settles O19: only the two stores write memory, and a store keeps every byte outside its range. -/
theorem memoryWriters : Obligations.MemoryWriters := by
  intro s t a hwf hstep hchanged
  obtain ht | ⟨i, hfetch, hc, rfl⟩ := step_latches_or_completes hstep
  · exact absurd (ht ▸ rfl) hchanged
  · by_cases hdigits : ∃ x, i = .ldBVx x
    · obtain ⟨x, rfl⟩ := hdigits
      exact .inl ⟨x, hfetch, exists_of_storeBytes_read_ne (bs := decimalDigits (s.getV x)) hwf hc hchanged⟩
    · by_cases hregs : ∃ x, i = .ldMiVx x
      · obtain ⟨x, rfl⟩ := hregs
        have hin : InMemory s.i.toNat (s.regsUpTo x).length := (s.length_regsUpTo x).symm ▸ hc
        obtain ⟨k, hk, ha⟩ := exists_of_storeBytes_read_ne hwf hin hchanged
        exact .inr ⟨x, hfetch, k, by simpa [Nat.lt_succ_iff] using hk, ha⟩
      · refine absurd ?_ hchanged
        rw [State.tick_mem, effect_mem (not_exists.mp hdigits) (not_exists.mp hregs), State.advance_mem]

/-- Settles O20: a fault keeps the registers, and so does an effect those it may not write. -/
theorem registerWriters : Obligations.RegisterWriters := by
  intro s t r hstep hchanged
  obtain ht | ⟨i, hfetch, -, rfl⟩ := step_latches_or_completes hstep
  · exact absurd (ht ▸ rfl) hchanged
  · exact ⟨i, hfetch, by_contra fun hw => hchanged (effect_getV hw s.advance)⟩

end Sys2Proof.Claims

/-! PROOFS. The value of `pc` after a completed cycle (10_state.md R14). -/

namespace Sys2Proof.Machine

open Sys2Proof.Claims

/-- From a fetchable address `pc` moves on without wrapping (R72). -/
theorem State.advance_pc_toNat {s : State} (hpc : s.pc.toNat ≤ 0xFFE) : s.advance.pc.toNat = s.pc.toNat + 2 := by
  rw [State.advance_pc]
  bv_omega

/-- From a fetchable address a skip moves `pc` by one or two instructions without wrapping (R89). -/
theorem State.skipIf_advance_pc_toNat {s : State} (hpc : s.pc.toNat ≤ 0xFFE) (c : Bool) :
    (s.advance.skipIf c).pc.toNat = if c then s.pc.toNat + 4 else s.pc.toNat + 2 := by
  rw [State.skipIf_pc, State.advance_pc]
  split <;> bv_omega

/-- The destination of `BNNN` does not overflow 16 bits (R87). -/
theorem zextAddr_add_zextByte_toNat (nnn : Addr) (b : Byte) :
    (zextAddr nnn + zextByte b).toNat = nnn.toNat + b.toNat := by
  have := nnn.isLt
  have := b.isLt
  rw [BitVec.toNat_add, zextAddr_toNat, zextByte_toNat]
  omega

/-- The flag of the key with a given number, as a register number or as an index (R21). -/
theorem Keys.getD_eq_iff {keys : Keys} {n : Nat} (h : n < 16) (b : Bool) :
    keys[n]?.getD false = b ↔ ∃ key : Reg, key.val = n ∧ keys[key] = b := by
  rw [Vector.getElem?_eq_getElem h, Option.getD_some]
  constructor
  · exact fun hb => ⟨⟨n, h⟩, rfl, hb⟩
  · rintro ⟨key, rfl, hb⟩
    exact hb

/-- A completed cycle leaves in `pc` what the table of R14 lists. -/
theorem effect_pc_toNat {i : Instr} {s : State} (hc : completes i s) (hpc : s.pc.toNat ≤ 0xFFE) :
    (effect i s.advance).pc.toNat = nextPc i s := by
  have hnext := State.advance_pc_toNat hpc
  cases i with
  | jp nnn | call nnn => exact zextAddr_toNat nnn
  | ret => rfl
  | jpV0 nnn => exact zextAddr_add_zextByte_toNat nnn (s.getV 0)
  | seVxNn | sneVxNn | seVxVy | sneVxVy => exact State.skipIf_advance_pc_toNat hpc _
  | skp x | sknp x =>
    refine (State.skipIf_advance_pc_toNat hpc _).trans ?_
    simp [nextPc, Keys.getD_eq_iff hc]
  | ldVxK x =>
    simp only [effect, nextPc]
    split
    · next hnone =>
      rw [if_neg (by simpa [waitKeyLast] using Keys.lowest_eq_none.mp hnone), State.setPc_pc, State.advance_pc]
      bv_omega
    · next key hkey =>
      obtain ⟨hle, hon, -⟩ := Keys.lowest_eq_some.mp hkey
      rw [if_pos ⟨key, hle, hon⟩]
      exact hnext
  | _ => exact hnext

/-- Where a completed cycle can leave `pc`, when return addresses are at most 0x1000 (R14). -/
theorem nextPc_le {s : State} (hpc : s.pc.toNat ≤ 0xFFE) (hslots : ∀ k : Fin 16, s.stack[k].toNat ≤ 0x1000)
    (i : Instr) : nextPc i s ≤ 0x10FE := by
  have skip (c : Bool) : (if c then s.pc.toNat + 4 else s.pc.toNat + 2) ≤ 0x10FE := by split <;> omega
  cases i with
  | jp nnn | call nnn =>
    have := nnn.isLt
    simp only [nextPc]
    omega
  | jpV0 nnn =>
    have := nnn.isLt
    have := (s.getV 0).isLt
    simp only [nextPc]
    omega
  | ret => exact Nat.le_trans (hslots ⟨s.sp.val - 1, by omega⟩) (by decide)
  | ldVxK x =>
    simp only [nextPc]
    split <;> omega
  | seVxNn | sneVxNn | seVxVy | sneVxVy | skp | sknp => exact skip _
  | _ =>
    simp only [nextPc]
    omega

end Sys2Proof.Machine

namespace Sys2Proof.Claims

open Sys2Proof.Machine

/-- Settles O12: a cycle that records a fault keeps `pc`, and any other completes its instruction. -/
theorem programCounterTable : Obligations.ProgramCounterTable := by
  intro s t i hrun hfetch hstep
  rw [step_of_instr hrun hfetch] at hstep
  have hnone := State.halted_eq_false.mp hrun
  obtain ⟨hc, rfl⟩ | ⟨-, rfl⟩ := exec_cases hstep
  · exact ⟨fun _ => effect_pc_toNat hc (fetch_eq_some.mp hfetch).1,
      fun hfault => absurd (effect_fault i s.advance ▸ hnone) hfault⟩
  · exact ⟨fun h => absurd h (faultCause_ne_none i), fun _ => rfl⟩

end Sys2Proof.Claims

/-! PROOFS. The invariant of the states a run reaches (10_state.md R14, R16; 60_exceptions.md R141, R155). -/

namespace Sys2Proof.Machine

/-- A completed instruction keeps memory canonical: its stores lie in memory (R37, R38). -/
theorem effect_mem_wf {i : Instr} {s : State} (hc : completes i s) (hwf : s.mem.wf) :
    (effect i s.advance).mem.wf := by
  by_cases hdigits : ∃ x, i = .ldBVx x
  · obtain ⟨x, rfl⟩ := hdigits
    exact Memory.wf_storeBytes hwf (bs := decimalDigits (s.getV x)) hc
  · by_cases hregs : ∃ x, i = .ldMiVx x
    · obtain ⟨x, rfl⟩ := hregs
      exact Memory.wf_storeBytes hwf (bs := s.regsUpTo x) ((s.length_regsUpTo x).symm ▸ hc)
    · rw [effect_mem (not_exists.mp hdigits) (not_exists.mp hregs)]
      exact hwf

/-- A completed instruction keeps the bound of the return addresses: a call pushes the address after it (R82). -/
theorem effect_slotBound {i : Instr} {s : State} (hpc : s.pc.toNat ≤ 0xFFE)
    (hslots : ∀ k : Fin 16, s.stack[k].toNat ≤ 0x1000) (k : Fin 16) :
    (effect i s.advance).stack[k].toNat ≤ 0x1000 := by
  by_cases hcall : ∃ nnn, i = .call nnn
  · obtain ⟨nnn, rfl⟩ := hcall
    have hpush : (effect (.call nnn) s.advance).stack[k] = if k.val = s.sp.val then s.advance.pc else s.stack[k] :=
      s.advance.getElem_stack_push _ k
    rw [hpush]
    split
    · exact (State.advance_pc_toNat hpc).trans_le (by omega)
    · exact hslots k
  · rw [effect_stack (not_exists.mp hcall)]
    exact hslots k

/-- A latch that records a fault keeps the invariant. -/
theorem State.Inv.with_fault {s : State} (h : s.Inv) {l : FaultLatch} (hl : l.cause = .none → l.info = 0) :
    State.Inv { s with fault := l } :=
  ⟨h.memWf, h.pcBound, h.slotBound, hl⟩

/-- A step keeps the invariant. -/
theorem State.Inv.step {s t : State} (h : s.Inv) (hstep : step s = .next t) : t.Inv := by
  cases hrun : s.halted with
  | true =>
    obtain rfl : s = t := by simpa [step_of_halted hrun] using hstep
    exact h
  | false =>
    obtain ⟨hcause, ht⟩ | ⟨i, hfetch, hc, rfl⟩ := step_faults_or_completes hrun hstep
    · exact ht ▸ h.with_fault fun hnone => absurd hnone hcause
    · have hpc := (fetch_eq_some.mp hfetch).1
      exact ⟨effect_mem_wf hc h.memWf, (effect_pc_toNat hc hpc).trans_le (nextPc_le hpc h.slotBound i),
        effect_slotBound hpc h.slotBound, (effect_fault i s.advance).symm ▸ h.noInfo⟩

/-- The reset state meets the invariant. -/
theorem State.Inv.reset : State.reset.Inv where
  memWf := State.reset_mem_wf
  pcBound := by decide
  slotBound := by decide
  noInfo := fun _ => rfl

/-- Every host operation keeps the invariant. -/
theorem State.Inv.apply {op : HostOp} {s t : State} (h : s.Inv) (hop : op.apply s = .next t) : t.Inv := by
  cases op with
  | step => exact h.step hop
  | reset =>
    cases hop
    have hreset := State.Inv.reset
    exact ⟨hreset.memWf, hreset.pcBound, hreset.slotBound, hreset.noInfo⟩
  | press key | release key =>
    cases hop
    exact ⟨h.memWf, h.pcBound, h.slotBound, h.noInfo⟩
  | load bytes =>
    cases hop
    rw [State.load_fst]
    exact ⟨State.load_mem_wf h.memWf bytes, h.pcBound, h.slotBound, h.noInfo⟩

end Sys2Proof.Machine

namespace Sys2Proof.Claims

open Sys2Proof.Machine

/-- Settles O13: nothing is listed, stacked or recorded at reset. -/
theorem invariantAfterReset : Obligations.InvariantAfterReset := State.Inv.reset

/-- Settles O14: a fault writes the latch alone, and a completed instruction keeps each clause. -/
theorem stepKeepsInvariant : Obligations.StepKeepsInvariant := fun _ _ => State.Inv.step

/-- Settles O15, by induction on the script. -/
theorem hostScriptKeepsInvariant : Obligations.HostScriptKeepsInvariant := by
  intro ops
  induction ops with
  | nil =>
    intro s t h hrun
    cases hrun
    exact h
  | cons op ops ih =>
    intro s t h hrun
    unfold runScript at hrun
    split at hrun
    · next u hop => exact ih u t (h.apply hop) hrun
    · cases hrun
    · cases hrun

end Sys2Proof.Claims

/-! PROOFS. The fault table of R141 is what a cycle records (60_exceptions.md section 1). -/

namespace Sys2Proof.Claims

open Sys2Proof.Machine

/-- With no word to fetch the table names the fetch fault and no other. -/
theorem faultsWith_of_fetch_none {s : State} (hfetch : fetch s = none) (c : FaultCause) (info : Word) :
    FaultsWith s c info ↔ c = .addressOutOfRange ∧ info = s.pc := by
  have hpc := fetch_eq_none.mp hfetch
  cases c <;> simp [FaultsWith, hfetch, hpc]

/-- With an illegal word fetched the table names that word and no other fault. -/
theorem faultsWith_of_illegal {s : State} {w : Word} (hfetch : fetch s = some w) (hill : illegalWord w = true)
    (c : FaultCause) (info : Word) : FaultsWith s c info ↔ c = .unknownOpcode ∧ info = w := by
  have hpc := (fetch_eq_some.mp hfetch).1
  have hword (i : Instr) : w ≠ encode i := by
    rintro rfl
    simp [illegalWord_encode] at hill
  have hret : w ≠ 0x00EE#16 := hword .ret
  cases c with
  | unknownOpcode =>
    constructor
    · rintro ⟨u, hu, -, rfl⟩
      exact ⟨rfl, Option.some.inj (hu.symm.trans hfetch)⟩
    · rintro ⟨-, rfl⟩
      exact ⟨info, hfetch, hill, rfl⟩
  | _ => simp [FaultsWith, hfetch, hword, hret, Nat.not_lt.mpr hpc]

/-- A range leaves memory when it is not empty and its last byte is above 0xFFF (R38). -/
theorem not_inMemory {a n : Nat} : ¬ InMemory a n ↔ 0 < n ∧ 0xFFF < a + n - 1 := by
  simp only [InMemory, Config.memSize]
  omega

/-- With the word of an instruction fetched the table names the fault of that instruction, when its checks fail. -/
theorem faultsWith_of_instr {s : State} {i : Instr} (hfetch : fetch s = some (encode i)) (c : FaultCause)
    (info : Word) : FaultsWith s c info ↔ ¬ completes i s ∧ c = faultCause i ∧ info = faultInfo i s := by
  have hpc := (fetch_eq_some.mp hfetch).1
  have fetched {j : Instr} (h : fetch s = some (encode j)) : i = j := by simpa [hfetch] using h
  constructor
  · intro h
    cases c with
    | none => exact h.elim
    | unknownOpcode =>
      obtain ⟨w, hw, hill, -⟩ := h
      obtain rfl : encode i = w := by simpa [hfetch] using hw
      simp [illegalWord_encode] at hill
    | stackOverflow =>
      obtain ⟨nnn, hw, hsp, rfl⟩ := h
      obtain rfl := fetched hw
      exact ⟨not_not.mpr hsp, rfl, rfl⟩
    | stackUnderflow =>
      obtain ⟨hw, hsp, rfl⟩ := h
      obtain rfl := fetched (j := .ret) hw
      exact ⟨not_not.mpr hsp, rfl, rfl⟩
    | addressOutOfRange =>
      obtain ⟨habove, -⟩ | ⟨rfl, ⟨x, y, n, hw, hn, hb⟩ | ⟨x, hw, hb⟩ | ⟨x, hw, hb⟩ | ⟨x, hw, hb⟩⟩ := h
      · exact absurd hpc (Nat.not_le.mpr habove)
      · obtain rfl := fetched hw
        exact ⟨not_inMemory.mpr ⟨hn, hb⟩, rfl, rfl⟩
      all_goals
        obtain rfl := fetched hw
        exact ⟨not_inMemory.mpr ⟨Nat.succ_pos _, hb⟩, rfl, rfl⟩
    | keyIndexOutOfRange =>
      obtain ⟨x, j, hj, hw, hx, rfl⟩ := h
      obtain rfl := fetched hw
      obtain rfl | rfl := hj <;> exact ⟨Nat.not_lt.mpr hx, rfl, rfl⟩
  · rintro ⟨hc, rfl, rfl⟩
    cases i with
    | ret => exact ⟨hfetch, not_not.mp hc, rfl⟩
    | call nnn => exact ⟨nnn, hfetch, not_not.mp hc, rfl⟩
    | drw x y n => exact .inr ⟨rfl, .inl ⟨x, y, n, hfetch, not_inMemory.mp hc⟩⟩
    | ldBVx x => exact .inr ⟨rfl, .inr (.inl ⟨x, hfetch, (not_inMemory.mp hc).2⟩)⟩
    | ldMiVx x => exact .inr ⟨rfl, .inr (.inr (.inl ⟨x, hfetch, (not_inMemory.mp hc).2⟩))⟩
    | ldVxMi x => exact .inr ⟨rfl, .inr (.inr (.inr ⟨x, hfetch, (not_inMemory.mp hc).2⟩))⟩
    | skp x => exact ⟨x, .skp x, .inl rfl, hfetch, Nat.not_lt.mp hc, rfl⟩
    | sknp x => exact ⟨x, .sknp x, .inr rfl, hfetch, Nat.not_lt.mp hc, rfl⟩
    | _ => exact absurd trivial hc

/-- Settles O10: by what the fetch finds, the table names exactly the fault that the cycle latches. -/
theorem faultCausesAreExact : Obligations.FaultCausesAreExact := by
  intro s t c info hempty hc hstep
  have hnone : s.fault.cause = .none := congrArg FaultLatch.cause hempty
  have hrun := State.halted_eq_false.mpr hnone
  obtain hfetch | ⟨w, hfetch, hill⟩ | ⟨i, hfetch⟩ := fetch_cases s
  · rw [step_of_fetch_none hrun hfetch] at hstep
    rw [raise_eq_next.mp hstep, faultsWith_of_fetch_none hfetch, FaultLatch.mk.injEq, eq_comm, eq_comm (a := s.pc)]
  · rw [step_of_illegal hrun hfetch hill] at hstep
    rw [raise_eq_next.mp hstep, faultsWith_of_illegal hfetch hill, FaultLatch.mk.injEq, eq_comm, eq_comm (a := w)]
  · rw [step_of_instr hrun hfetch] at hstep
    rw [faultsWith_of_instr hfetch]
    obtain ⟨hdone, rfl⟩ | ⟨hfail, rfl⟩ := exec_cases hstep
    · simp [effect_fault, hempty, hdone, hc.symm]
    · simp [hfail, eq_comm]

end Sys2Proof.Claims

/-! PROOFS. What no cycle reads: the draw counter but for `CXNN`, the sound timer, and the stack slots at or above `sp`
(10_state.md R16, R19; 42_alu.md R103). -/

namespace Sys2Proof.Machine

/-- A state with other contents of the stack slots, the sound timer and the draw counter. -/
def State.withUnread (s : State) (stack : Vector Word 16) (sound : Byte) (draws : Nat) : State :=
  { s with stack := stack, st := sound, draws := draws }

/-- Halting, the fetch and the checks of an instruction look at none of these parts, and a fault keeps them: so two
steps that differ in them are related as the effects of the fetched instruction are. -/
theorem step_withUnread {s t : State} {stack : Vector Word 16} {sound : Byte} {draws : Nat}
    {Related : State → State → Prop} (h : step s = .next t)
    (hlatch : ∀ l : FaultLatch,
      Related { s with fault := l } (State.withUnread { s with fault := l } stack sound draws))
    (heffect : ∀ i, fetch s = some (encode i) → completes i s →
      Related (effect i s.advance).tick (effect i (s.advance.withUnread stack sound draws)).tick) :
    ∃ u, step (s.withUnread stack sound draws) = .next u ∧ Related t u := by
  have hcompletes (i : Instr) : completes i (s.withUnread stack sound draws) ↔ completes i s := by cases i <;> rfl
  have hinfo (i : Instr) : faultInfo i (s.withUnread stack sound draws) = faultInfo i s := by cases i <;> rfl
  cases hrun : s.halted with
  | true =>
    obtain rfl : s = t := by simpa [step_of_halted hrun] using h
    exact ⟨_, step_of_halted hrun, hlatch s.fault⟩
  | false =>
    have hrun' : (s.withUnread stack sound draws).halted = false := hrun
    obtain hfetch | ⟨w, hfetch, hill⟩ | ⟨i, hfetch⟩ := fetch_cases s
    · rw [step_of_fetch_none hrun hfetch] at h
      exact ⟨_, step_of_fetch_none hrun' hfetch, raise_eq_next.mp h ▸ hlatch _⟩
    · rw [step_of_illegal hrun hfetch hill] at h
      exact ⟨_, step_of_illegal hrun' hfetch hill, raise_eq_next.mp h ▸ hlatch _⟩
    · rw [step_of_instr hrun hfetch] at h
      rw [step_of_instr hrun' hfetch]
      obtain ⟨hc, rfl⟩ | ⟨hc, rfl⟩ := exec_cases h
      · exact ⟨_, exec_of_completes ((hcompletes i).mpr hc), heffect i hfetch hc⟩
      · exact ⟨_, exec_of_not_completes (mt (hcompletes i).mp hc), hinfo i ▸ hlatch _⟩

/-- A skip commutes with every change of the state that leaves `pc` to it. -/
theorem State.skipIf_comm {change : State → State} {s : State}
    (h : (change s).setPc ((change s).pc + 2) = change (s.setPc (s.pc + 2))) (c : Bool) :
    (change s).skipIf c = change (s.skipIf c) := by
  cases c with
  | false => rfl
  | true => exact h

/-- Only `CXNN` reads or writes the draw counter (R103). -/
theorem effect_with_draws {i : Instr} (hrnd : ∀ x nn, i ≠ .rnd x nn) (s : State) (d : Nat) :
    effect i { s with draws := d } = { effect i s with draws := d } := by
  cases i with
  | rnd x nn => exact absurd rfl (hrnd x nn)
  | ldVxK x => simp only [effect]; split <;> rfl
  | seVxNn | sneVxNn | seVxVy | sneVxVy | skp | sknp =>
    exact State.skipIf_comm (change := fun s => { s with draws := d }) rfl _
  | _ => rfl

/-- No instruction reads the sound timer (R19): `FX18` writes it, every other one keeps it. -/
theorem effect_with_st (i : Instr) (s : State) (b : Byte) :
    ∃ b', effect i { s with st := b } = { effect i s with st := b' } := by
  cases i with
  | ldStVx x => exact ⟨s.getV x, rfl⟩
  | ldVxK x => exact ⟨b, by simp only [effect]; split <;> rfl⟩
  | seVxNn | sneVxNn | seVxVy | sneVxVy | skp | sknp =>
    exact ⟨b, State.skipIf_comm (change := fun s => { s with st := b }) rfl _⟩
  | _ => exact ⟨b, rfl⟩

/-- Two stacks agree in the slots below a stack pointer. -/
def SlotsAgree (sp : Fin 17) (stack stack' : Vector Word 16) : Prop :=
  ∀ slot : Fin 16, slot.val < sp.val → stack'[slot] = stack[slot]

/-- Pushing one word on stacks that agree leaves stacks that agree, up to the new slot (R82). -/
theorem SlotsAgree.push {s : State} {stack : Vector Word 16} (h : SlotsAgree s.sp s.stack stack) (w : Word) :
    SlotsAgree (s.push w).sp (s.push w).stack (State.push { s with stack := stack } w).stack := by
  intro slot hslot
  rw [State.getElem_stack_push, State.getElem_stack_push]
  split
  · rfl
  · next hne =>
    have hother : slot.val ≠ s.sp.val := hne
    simp only [State.push_sp] at hslot
    exact h slot (by omega)

/-- Only a return reads a stack slot, the one below `sp`: slots at or above `sp` influence no other part, and there again
only slots at or above the next `sp` (R16). -/
theorem effect_with_stack {i : Instr} {s : State} (hc : completes i s) {stack : Vector Word 16}
    (h : SlotsAgree s.sp s.stack stack) :
    ∃ stack', effect i { s with stack := stack } = { effect i s with stack := stack' } ∧
      SlotsAgree (effect i s).sp (effect i s).stack stack' := by
  cases i with
  | call nnn => exact ⟨_, rfl, h.push s.pc⟩
  | ret =>
    have htop : stack[s.sp.val - 1] = s.stack[s.sp.val - 1] :=
      h ⟨s.sp.val - 1, by omega⟩ (Nat.sub_one_lt hc)
    refine ⟨stack, by simp [effect, State.popPc, htop], fun slot hslot => h slot ?_⟩
    exact Nat.lt_of_lt_of_le hslot (Nat.sub_le s.sp.val 1)
  | ldVxK x =>
    refine ⟨stack, by simp only [effect]; split <;> rfl, ?_⟩
    rwa [effect_sp (by simp) (by simp), effect_stack (by simp)]
  | seVxNn | sneVxNn | seVxVy | sneVxVy | skp | sknp =>
    refine ⟨stack, State.skipIf_comm (change := fun s => { s with stack := stack }) rfl _, ?_⟩
    rwa [effect_sp (by simp) (by simp), effect_stack (by simp)]
  | _ => exact ⟨stack, rfl, h⟩

end Sys2Proof.Machine

namespace Sys2Proof.Claims

open Sys2Proof.Machine

/-- Settles O22: no effect but that of `CXNN` reads or writes the draw counter. -/
theorem onlyRndReadsRandomByte : Obligations.OnlyRndReadsRandomByte := by
  intro s t d hrnd hstep
  obtain ⟨u, hu, rfl⟩ := step_withUnread (stack := s.stack) (sound := s.st) (draws := d)
    (Related := fun t u => u = { t with draws := d }) hstep (fun _ => rfl) fun i hfetch _ => by
      have hother (x : Reg) (nn : Byte) : i ≠ .rnd x nn := fun hi => hrnd x nn (hi ▸ hfetch)
      exact congrArg State.tick (effect_with_draws hother s.advance d)
  exact hu

/-- Settles O23: no effect reads the sound timer, and the tick reads it into itself alone. -/
theorem soundTimerIsNotRead : Obligations.SoundTimerIsNotRead := by
  intro s t b hstep
  obtain ⟨u, hu, b', rfl⟩ := step_withUnread (stack := s.stack) (sound := b) (draws := s.draws)
    (Related := fun t u => ∃ b', u = { t with st := b' }) hstep (fun _ => ⟨b, rfl⟩) fun i _ _ => by
      obtain ⟨b', hb'⟩ := effect_with_st i s.advance b
      exact ⟨tickByte b', congrArg State.tick hb'⟩
  exact ⟨b', hu⟩

/-- Settles O24: an effect reads no slot at or above `sp`, and a fault keeps `sp`. -/
theorem staleSlotsAreUnobservable : Obligations.StaleSlotsAreUnobservable := by
  intro s t stack hagree hstep
  obtain ⟨u, hu, stack', rfl, hagree'⟩ := step_withUnread (stack := stack) (sound := s.st) (draws := s.draws)
    (Related := fun t u => ∃ stack', u = { t with stack := stack' } ∧ SlotsAgree t.sp t.stack stack') hstep
    (fun _ => ⟨stack, rfl, hagree⟩) fun i _ hc => by
      obtain ⟨stack', hstack', hagree'⟩ := effect_with_stack (i := i) (s := s.advance) (by cases i <;> exact hc) hagree
      exact ⟨stack', congrArg State.tick hstack', hagree'⟩
  exact ⟨stack', hu, hagree'⟩

end Sys2Proof.Claims

/-! PROOFS. Frames: what changes over several updates or cycles is what each of them changes. -/

namespace Sys2Proof.Claims

open Sys2Proof.Machine

theorem Unchanged.trans {s t u : State} {p : Part} (h : Unchanged s t p) (h' : Unchanged t u p) :
    Unchanged s u p := by
  cases p with
  | regs => exact fun r => (h' r).trans (h r)
  | memory => exact fun a => (h' a).trans (h a)
  | stack | timers => exact ⟨h'.1.trans h.1, h'.2.trans h.2⟩
  | _ => exact Eq.trans h' h

theorem OnlyChanges.trans {s t u : State} {ps qs : List Part} (h : OnlyChanges s t ps) (h' : OnlyChanges t u qs) :
    OnlyChanges s u (ps ++ qs) := by
  intro p hp
  obtain ⟨hps, hqs⟩ := not_or.mp (mt List.mem_append.mpr hp)
  exact (h p hps).trans (h' p hqs)

theorem OnlyChanges.mono {s t : State} {ps qs : List Part} (h : OnlyChanges s t ps) (hsub : ps ⊆ qs) :
    OnlyChanges s t qs := fun p hp => h p (mt (@hsub p) hp)

end Sys2Proof.Claims

/-! PROOFS. The jumps, the register skips, the call and the return (41_control_flow.md R80 to R89, R186). -/

namespace Sys2Proof.Claims

open Sys2Proof.Machine

/-- A cycle that writes `pc`, `sp` and stack slots ticks the timers and keeps every other part. -/
theorem ticked_onlyChanges_with_stack (s : State) (target : Word) (stack : Vector Word 16) (sp : Fin 17) :
    Ticked s (State.tick { s with pc := target, stack := stack, sp := sp }) ∧
      OnlyChanges s (State.tick { s with pc := target, stack := stack, sp := sp }) [.pc, .stack, .timers] := by
  refine ⟨⟨tickByte_toNat s.dt, tickByte_toNat s.st⟩, fun p hp => ?_⟩
  cases p with
  | pc | stack | timers => simp at hp
  | regs => exact fun _ => rfl
  | memory => exact fun _ => rfl
  | _ => rfl

/-- Settles O26: with a free slot the call completes, and its effect is a push and a write of `pc`. -/
theorem callPushesAndJumps : Obligations.CallPushesAndJumps := by
  intro nnn s
  constructor
  · intro hfree
    exact ⟨_, exec_of_completes (i := .call nnn) (Nat.ne_of_lt hfree), zextAddr_toNat nnn,
      State.sp_push hfree (s.pc + 2), s.getElem_stack_push (s.pc + 2), ticked_onlyChanges_with_stack s ..⟩
  · intro hfull
    exact exec_of_not_completes (i := .call nnn) (not_not.mpr hfull)

/-- Settles O27: with a slot in use the return completes, and its effect reads that slot and lowers `sp`. -/
theorem returnPopsPc : Obligations.ReturnPopsPc := by
  intro s
  constructor
  · intro slot hslot
    have hlower : s.sp.val - 1 = slot.val := by omega
    have htop : s.stack[s.sp.val - 1] = s.stack[slot] := by simp [hlower]
    exact ⟨_, exec_of_completes (i := .ret) (by simp [completes, hslot]), htop, hlower, rfl,
      ticked_onlyChanges_with_stack s ..⟩
  · intro hempty
    exact exec_of_not_completes (i := .ret) (not_not.mpr hempty)

/-- Settles O28: the return pops the slot that the call pushed. -/
theorem callThenReturn : Obligations.CallThenReturn := by
  intro nnn s hfree
  obtain ⟨t, hcall, -, hsp, hslots, -, hframe⟩ := (callPushesAndJumps nnn s).1 hfree
  obtain ⟨u, hret, hpc, hsp', -, -, hframe'⟩ := (returnPopsPc t).1 ⟨s.sp.val, hfree⟩ hsp
  refine ⟨t, u, hcall, hret, ?_, Fin.ext hsp', (hframe.trans hframe').mono (by simp)⟩
  rw [hpc, hslots, if_pos rfl]

/-- Settles O30: both skips always complete, and they are one skip under opposite conditions. -/
theorem registerSkips : Obligations.RegisterSkips := by
  intro x y s
  refine ⟨formatXYN_toNat 5 x y 0, formatXYN_toNat 9 x y 0,
    ⟨_, exec_of_completes trivial, ?equal⟩, ⟨_, exec_of_completes trivial, ?differ⟩⟩
  case equal => simpa [effect] using jumpCycle_skipIf s (s.getV x == s.getV y)
  case differ => simpa [effect] using jumpCycle_skipIf s (s.getV x != s.getV y)

/-- Settles O31: the jump always completes, and the sum of a 12-bit and an 8-bit number does not overflow 16 bits. -/
theorem jumpOffsetSetsPc : Obligations.JumpOffsetSetsPc := by
  intro nnn s
  obtain ⟨hpc, hticked, hframe⟩ := jumpCycle_setPc s (zextAddr nnn + zextByte (s.getV 0))
  exact ⟨_, exec_of_completes (i := .jpV0 nnn) trivial,
    (congrArg BitVec.toNat hpc).trans (zextAddr_add_zextByte_toNat nnn (s.getV 0)), hticked, hframe⟩

/-- A cycle of a jump to its own address is a tick and nothing else (R81). -/
theorem step_jump_to_self {s : State} {nnn : Addr} (hrun : s.halted = false) (hself : s.pc.toNat = nnn.toNat)
    (hfetch : fetch s = some (encode (.jp nnn))) : step s = .next s.tick := by
  have htarget : zextAddr nnn = s.pc := BitVec.eq_of_toNat_eq ((zextAddr_toNat nnn).trans hself.symm)
  rw [step_of_instr hrun hfetch, exec_of_completes (i := .jp nnn) trivial, effect, htarget]
  rfl

/-- The tick changes the timers only. -/
theorem onlyChanges_tick (s : State) : OnlyChanges s s.tick [.timers] := by
  intro p hp
  cases p with
  | timers => simp at hp
  | regs => exact fun _ => rfl
  | memory => exact fun _ => rfl
  | stack => exact ⟨rfl, rfl⟩
  | _ => rfl

/-- Settles O32, by induction on the number of cycles: the tick leaves the core at the same jump, not halted. -/
theorem jumpToSelfNeverHalts : Obligations.JumpToSelfNeverHalts := by
  intro s nnn hrun hself hfetch
  refine ⟨⟨s.tick, step_jump_to_self hrun hself hfetch, onlyChanges_tick s⟩, fun n => ?_⟩
  induction n generalizing s with
  | zero => exact hrun
  | succ n ih => exact ⟨hrun, s.tick, step_jump_to_self hrun hself hfetch, ih s.tick hrun hself hfetch⟩

end Sys2Proof.Claims

/-! PROOFS. The instructions that write a flag or draw a random byte, and the index arithmetic (42_alu.md R97 to R103;
43_index_memory.md R111, R112). -/

namespace Sys2Proof.Claims

open Sys2Proof.Machine

/-- The effect of an instruction that writes its result to a register and then its flag to VF: with VF as the
destination the result is lost (R90). -/
theorem exec_of_effect_setV_setFlag {i : Instr} {s : State} {x : Reg} {b : Byte} {c : Bool} (hc : completes i s)
    (heffect : effect i s.advance = (s.advance.setV x b).setFlag c) :
    ∃ t, exec i s = .next t ∧ (x ≠ VF → t.getV x = b) ∧ t.getV VF = flagByte c ∧ RegsButFlag s t x ∧
      RegisterCycle s t := by
  refine ⟨((s.advance.setV x b).setFlag c).tick, heffect ▸ exec_of_completes hc, ?result, ?flag, ?others,
    registerCycle_with_v s _⟩
  case result =>
    intro hx
    simp [hx]
  case flag => simp
  case others =>
    intro r hr hflag
    simp [hr, hflag]

/-- The effect of an instruction that writes its flag to VF and then works on its register: with VF as the register it
works on the flag (R90). -/
theorem exec_of_effect_setFlag_setV {i : Instr} {s : State} {x : Reg} {c : Bool} {f : Byte → Byte}
    (hc : completes i s)
    (heffect : effect i s.advance = (s.advance.setFlag c).setV x (f ((s.advance.setFlag c).getV x))) :
    ∃ t, exec i s = .next t ∧ (x ≠ VF → t.getV x = f (s.getV x) ∧ t.getV VF = flagByte c) ∧
      (x = VF → t.getV VF = f (flagByte c)) ∧ RegsButFlag s t x ∧ RegisterCycle s t := by
  refine ⟨((s.advance.setFlag c).setV x (f ((s.advance.setFlag c).getV x))).tick, heffect ▸ exec_of_completes hc,
    ?other, ?same, ?others, registerCycle_with_v s _⟩
  case other =>
    intro hx
    simp [hx, hx.symm]
  case same =>
    rintro rfl
    simp
  case others =>
    intro r hr hflag
    simp [hr, hflag]

theorem flagByte_carryOut (a b : Byte) :
    flagByte (carryOut a b) = if a.toNat + b.toNat ≥ 256 then 1 else 0 := by
  simp [flagByte, carryOut]

theorem flagByte_noBorrow (a b : Byte) : flagByte (noBorrow a b) = if b.toNat ≤ a.toNat then 1 else 0 := by
  simp [flagByte, noBorrow]

/-- The bit shifted out to the right is the parity (R99). -/
theorem flagByte_lowBit_toNat (a : Byte) : (flagByte (lowBit a)).toNat = a.toNat % 2 := by
  rw [lowBit, ← BitVec.testBit_toNat, Nat.testBit_eq_decide_div_mod_eq, pow_zero, Nat.div_one, flagByte]
  split <;> simp_all

/-- The bit shifted out to the left is the upper half of the range (R101). -/
theorem flagByte_highBit_toNat (a : Byte) : (flagByte (highBit a)).toNat = a.toNat / 128 := by
  have := a.isLt
  rw [highBit, ← BitVec.testBit_toNat, Nat.testBit_eq_decide_div_mod_eq, flagByte]
  split <;> simp_all <;> omega

/-- A flag shifted right is lost. -/
theorem flagByte_shiftRight (c : Bool) : flagByte c >>> 1 = 0 := by cases c <;> rfl

/-- A flag shifted left is doubled. -/
theorem flagByte_shiftLeft_toNat (c : Bool) : (flagByte c <<< 1).toNat = (flagByte c).toNat * 2 := by cases c <;> rfl

/-- A difference modulo 256, added to what was subtracted, gives back what it was subtracted from. -/
theorem sub_toNat_add_mod (a b : Byte) : ((a - b).toNat + b.toNat) % 256 = a.toNat := by
  rw [← BitVec.toNat_add, BitVec.sub_add_cancel]

/-- Settles O35: the addition always completes, and its effect writes the sum and then the carry-out. -/
theorem addSetsCarry : Obligations.AddSetsCarry := by
  intro x y s
  obtain ⟨t, hexec, hsum, hflag, hframe⟩ := exec_of_effect_setV_setFlag (i := .addVxVy x y) (s := s) trivial rfl
  exact ⟨t, hexec, fun hx => hsum hx ▸ BitVec.toNat_add (s.getV x) (s.getV y),
    hflag.trans (flagByte_carryOut (s.getV x) (s.getV y)), hframe⟩

/-- Settles O36: both subtractions always complete, and their effect writes the difference and then no-borrow. -/
theorem subtractSetsNoBorrow : Obligations.SubtractSetsNoBorrow := by
  intro x y s
  constructor
  · obtain ⟨t, hexec, hdiff, hflag, hframe⟩ := exec_of_effect_setV_setFlag (i := .sub x y) (s := s) trivial rfl
    exact ⟨t, hexec, fun hx => hdiff hx ▸ sub_toNat_add_mod (s.getV x) (s.getV y),
      hflag.trans (flagByte_noBorrow (s.getV x) (s.getV y)), hframe⟩
  · obtain ⟨t, hexec, hdiff, hflag, hframe⟩ := exec_of_effect_setV_setFlag (i := .subn x y) (s := s) trivial rfl
    exact ⟨t, hexec, fun hx => hdiff hx ▸ sub_toNat_add_mod (s.getV y) (s.getV x),
      hflag.trans (flagByte_noBorrow (s.getV y) (s.getV x)), hframe⟩

/-- Settles O37: both shifts always complete, and their effect writes the bit shifted out and then shifts. -/
theorem shiftsSetBitShiftedOut : Obligations.ShiftsSetBitShiftedOut := by
  intro x y s
  constructor
  · obtain ⟨t, hexec, hother, hsame, hframe⟩ :=
      exec_of_effect_setFlag_setV (i := .shr x y) (f := fun b => b >>> 1) (s := s) trivial rfl
    refine ⟨t, hexec, fun hx => ?_, fun hx => ?_, hframe⟩
    · obtain ⟨hresult, hflag⟩ := hother hx
      rw [hresult, hflag]
      exact ⟨by simp [Nat.shiftRight_one], flagByte_lowBit_toNat (s.getV x)⟩
    · exact (hsame hx).trans (flagByte_shiftRight (lowBit (s.getV x)))
  · obtain ⟨t, hexec, hother, hsame, hframe⟩ :=
      exec_of_effect_setFlag_setV (i := .shl x y) (f := fun b => b <<< 1) (s := s) trivial rfl
    refine ⟨t, hexec, fun hx => ?_, fun hx => ?_, hframe⟩
    · obtain ⟨hresult, hflag⟩ := hother hx
      rw [hresult, hflag]
      exact ⟨by simp [Nat.shiftLeft_eq], flagByte_highBit_toNat (s.getV x)⟩
    · rw [hsame hx, ← flagByte_highBit_toNat]
      exact flagByte_shiftLeft_toNat (highBit (s.getV x))

/-- The draw counter is a part of its own. -/
theorem onlyChanges_with_draws (s : State) (d : Nat) : OnlyChanges s { s with draws := d } [.draws] := by
  intro p hp
  cases p with
  | draws => simp at hp
  | regs => exact fun _ => rfl
  | memory => exact fun _ => rfl
  | stack | timers => exact ⟨rfl, rfl⟩
  | _ => rfl

/-- Settles O38: the instruction always completes; its effect writes the masked byte and then consumes the draw. -/
theorem randomByteIsMasked : Obligations.RandomByteIsMasked := by
  intro x nn s
  obtain ⟨hpc, hticked, hframe⟩ := registerCycle_with_v s (s.v.set x (Config.rnd s.draws &&& nn))
  refine ⟨formatXNN_toNat 0xC x nn, ((s.advance.setV x (Config.rnd s.draws &&& nn)).nextDraw).tick,
    exec_of_completes (i := .rnd x nn) trivial, ?byte, ?others, rfl, hpc, hticked,
    hframe.trans (onlyChanges_with_draws _ _)⟩
  case byte => simp
  case others =>
    intro r hr
    simp [hr]

/-- Settles O40: both instructions always complete and write `I`; only the first sum can wrap. -/
theorem indexArithmetic : Obligations.IndexArithmetic := by
  intro x s
  constructor
  · obtain ⟨t, hexec, hi, hframe⟩ := exec_of_effect_setI (i := .addIVx x) (s := s) trivial rfl
    refine ⟨t, hexec, ?_, hframe⟩
    rw [hi, BitVec.toNat_add, zextByte_toNat]
    rfl
  · obtain ⟨t, hexec, hi, hframe⟩ := exec_of_effect_setI (i := .ldFVx x) (s := s) trivial rfl
    exact ⟨t, hexec, hi ▸ (glyphAddr_toNat (s.getV x)).trans (Nat.mul_comm ..), hframe⟩

end Sys2Proof.Claims

/-! PROOFS. The stores and loads through `I`, the load of an image, and the form of memory (43_index_memory.md R113 to
R116; 20_memory.md R37 to R45; 70_reset_and_hazards.md R176). -/

namespace Sys2Proof.Machine

/-- A canonical memory whose first cell stands above an address reads there as after reset. -/
theorem Memory.read_below {c : Host.Cell} {m : Memory} (h : Memory.wf (c :: m)) {a : Nat} (ha : a < c.1) :
    Memory.read (c :: m) a = resetByte a := by
  obtain ⟨hlt, -⟩ := Memory.wf_cons.mp h
  refine Memory.read_of_unlisted fun d hd => ?_
  rcases List.mem_cons.mp hd with rfl | hd
  · exact Nat.ne_of_gt ha
  · exact Nat.ne_of_gt (Nat.lt_trans ha (hlt d hd))

@[simp] theorem Memory.read_cons_self (c : Host.Cell) (m : Memory) : Memory.read (c :: m) c.1 = c.2 := if_pos rfl

/-- Of two canonical memories that read alike neither begins below the other. -/
theorem Memory.first_le_of_read_eq {c d : Host.Cell} {m n : Memory} (hc : Memory.wf (c :: m)) (hd : Memory.wf (d :: n))
    (h : ∀ a, Memory.read (c :: m) a = Memory.read (d :: n) a) : d.1 ≤ c.1 := by
  obtain ⟨-, -, hlisted, -⟩ := Memory.wf_cons.mp hc
  by_contra! hlt
  have hread := h c.1
  rw [Memory.read_cons_self, Memory.read_below hd hlt] at hread
  exact hlisted hread

/-- The memory of the model is determined by its bytes (log 20). -/
theorem Memory.eq_of_read_eq {m n : Memory} (hm : m.wf) (hn : n.wf) (h : ∀ a, m.read a = n.read a) : m = n := by
  induction m generalizing n with
  | nil =>
    cases n with
    | nil => rfl
    | cons d n =>
      obtain ⟨-, -, hlisted, -⟩ := Memory.wf_cons.mp hn
      exact absurd ((Memory.read_cons_self d n).symm.trans (h d.1).symm) hlisted
  | cons c m ih =>
    cases n with
    | nil =>
      obtain ⟨-, -, hlisted, -⟩ := Memory.wf_cons.mp hm
      exact absurd ((Memory.read_cons_self c m).symm.trans (h c.1)) hlisted
    | cons d n =>
      have hfirst : c.1 = d.1 :=
        Nat.le_antisymm (Memory.first_le_of_read_eq hn hm fun a => (h a).symm) (Memory.first_le_of_read_eq hm hn h)
      have hbyte : c.2 = d.2 := by
        rw [← Memory.read_cons_self c m, h, hfirst, Memory.read_cons_self]
      obtain rfl : c = d := Prod.ext hfirst hbyte
      obtain ⟨hltm, -, -, hm'⟩ := Memory.wf_cons.mp hm
      obtain ⟨hltn, -, -, hn'⟩ := Memory.wf_cons.mp hn
      refine congrArg (c :: ·) (ih hm' hn' fun a => ?_)
      by_cases ha : c.1 = a
      · subst ha
        rw [Memory.read_of_unlisted fun d hd => Nat.ne_of_gt (hltm d hd),
          Memory.read_of_unlisted fun d hd => Nat.ne_of_gt (hltn d hd)]
      · simpa [Memory.read, ha] using h a

end Sys2Proof.Machine

namespace Sys2Proof.Claims

open Sys2Proof.Machine

/-- Settles O44, by induction on the cells: memories that read alike list the same first address, hence the same byte. -/
theorem canonicalMemoryIsUnique : Obligations.CanonicalMemoryIsUnique := fun _ _ => Memory.eq_of_read_eq

/-- Memory is a part of its own. -/
theorem onlyChanges_with_mem (s : State) (m : Memory) : OnlyChanges s { s with mem := m } [.memory] := by
  intro p hp
  cases p with
  | memory => simp at hp
  | regs => exact fun _ => rfl
  | stack | timers => exact ⟨rfl, rfl⟩
  | _ => rfl

/-- A cycle that does nothing but replace memory moves `pc` to the next instruction, ticks the timers and keeps every
other part. -/
theorem memoryCycle (s : State) (m : Memory) :
    (s.advance.setMem m).tick.pc = s.pc + 2 ∧ Ticked s (s.advance.setMem m).tick ∧
      OnlyChanges s (s.advance.setMem m).tick [.memory, .pc, .timers] := by
  obtain ⟨hpc, hticked, hframe⟩ := jumpCycle_setPc { s with mem := m } (s.pc + 2)
  exact ⟨hpc, hticked, (onlyChanges_with_mem s m).trans hframe⟩

/-- The bytes stored through `I` when the range lies in memory: read back in order, and nothing else written. -/
theorem read_store {s : State} (hwf : s.mem.wf) {bs : List Byte} (hin : InMemory s.i.toNat bs.length) :
    (∀ k < bs.length, bs[k]? = some ((s.mem.storeBytes (s.dataAddr 0) bs).read (s.dataAddr k))) ∧
    ∀ a, (∀ k < bs.length, a ≠ s.dataAddr k) → (s.mem.storeBytes (s.dataAddr 0) bs).read a = s.mem.read a :=
  ⟨fun _ => Memory.read_storeBytes_at hwf hin, fun _ => Memory.read_storeBytes_outside hwf hin⟩

theorem inMemory_of_last_le {a n : Nat} (h : a + n ≤ 0xFFF) : InMemory a (n + 1) :=
  .inr (Nat.succ_le_succ h)

theorem not_inMemory_of_lt_last {a n : Nat} (h : 0xFFF < a + n) : ¬ InMemory a (n + 1) :=
  not_inMemory.mpr ⟨Nat.succ_pos n, h⟩

/-- Settles O41: with the range in memory the store completes and writes the three digits. -/
theorem storeDecimalDigits : Obligations.StoreDecimalDigits := by
  intro x s hwf
  constructor
  · intro hlast
    have hin : InMemory s.i.toNat (decimalDigits (s.getV x)).length := inMemory_of_last_le hlast
    obtain ⟨hstored, hkept⟩ := read_store hwf hin
    have hdigit (k : Nat) (hk : k < 3) := congrArg (Option.map BitVec.toNat) (hstored k hk)
    simp only [← List.getElem?_map, decimalDigits_toNat, Option.map_some] at hdigit
    exact ⟨_, exec_of_completes (i := .ldBVx x) hin, (Option.some.inj (hdigit 0 (by decide))).symm,
      (Option.some.inj (hdigit 1 (by decide))).symm, (Option.some.inj (hdigit 2 (by decide))).symm, hkept,
      memoryCycle s _⟩
  · intro hlast
    exact exec_of_not_completes (i := .ldBVx x) (not_inMemory_of_lt_last hlast)

/-- Settles O42: with the range in memory the store completes and writes the registers in order. -/
theorem storeRegisters : Obligations.StoreRegisters := by
  intro x s hwf
  constructor
  · intro hlast
    have hin : InMemory s.i.toNat (s.regsUpTo x).length := (s.length_regsUpTo x).symm ▸ inMemory_of_last_le hlast
    obtain ⟨hstored, hkept⟩ := read_store hwf hin
    rw [s.length_regsUpTo] at hstored hkept
    refine ⟨_, exec_of_completes (i := .ldMiVx x) (inMemory_of_last_le hlast), ?registers, ?others, memoryCycle s _⟩
    case registers =>
      intro r hr
      have hreg := hstored r.val (Nat.lt_succ_of_le hr)
      rw [s.getElem?_regsUpTo, dif_pos hr, Option.some.injEq] at hreg
      exact hreg.symm
    case others => exact fun a ha => hkept a fun k hk => ha k (Nat.le_of_lt_succ hk)
  · intro hlast
    exact exec_of_not_completes (i := .ldMiVx x) (not_inMemory_of_lt_last hlast)

/-- Settles O43: with the range in memory the load completes and writes the registers V0 to Vx. -/
theorem loadRegisters : Obligations.LoadRegisters := by
  intro x s
  constructor
  · intro hlast
    exact ⟨_, exec_of_completes (i := .ldVxMi x) (inMemory_of_last_le hlast), s.advance.getV_loadRegs x,
      registerCycle_with_v s _⟩
  · intro hlast
    exact exec_of_not_completes (i := .ldVxMi x) (not_inMemory_of_lt_last hlast)

/-- Settles O45: the next instruction's two bytes are V0 and V1, which the store has written there. -/
theorem storedCodeRunsNext : Obligations.StoredCodeRunsNext := by
  intro s t x j hwf hrun hx hnext hlast hdecode hexec
  obtain ⟨u, hu, hregs, -, hpc, -, hframe⟩ := (storeRegisters x s hwf).1 hlast
  obtain rfl : u = t := by simpa [hu] using hexec
  have hfault : u.fault = s.fault := hframe .fault (by simp)
  have haddr : u.pc = s.i := hpc.trans hnext.symm
  have hfirst : u.mem.read u.pc.toNat = s.getV 0 := haddr ▸ hregs 0 (Nat.zero_le _)
  have hsecond : u.mem.read (u.pc.toNat + 1) = s.getV 1 := haddr ▸ hregs 1 hx
  refine step_of_instr (by simpa [State.halted, hfault] using hrun) (fetch_eq_some.mpr ⟨?_, ?_⟩)
  · rw [haddr]
    omega
  · rw [hfirst, hsecond]
    exact (encode_of_decodeWord hdecode).symm

/-- Settles O56: an image that fits is stored at 0x200 upward, and a longer one is refused. -/
theorem loadCopiesImage : Obligations.LoadCopiesImage := by
  intro s bytes hwf
  constructor
  · intro hfits
    have hload : s.load bytes = (s.setMem (s.mem.storeBytes Config.progBase bytes), .ok) :=
      if_pos (by simpa [imageWellFormed] using hfits)
    have hin : InMemory Config.progBase bytes.length := .inr (by simp only [Config.progBase, Config.memSize]; omega)
    rw [hload]
    exact ⟨rfl, fun _ => Memory.read_storeBytes_at hwf hin, fun _ => Memory.read_storeBytes_outside hwf hin,
      onlyChanges_with_mem s _⟩
  · intro hlong
    exact if_neg (by simpa [imageWellFormed] using hlong)

end Sys2Proof.Claims

/-! PROOFS. The sprite instruction (44_display.md R121, R124, R125). -/

namespace Sys2Proof.Machine

/-- Which pixels a sprite covers does not depend on how the display's coordinates are written. -/
theorem covers_mod {x y cx cy : Nat} {bytes : List Byte} :
    Covers x y (cx % 64) (cy % 32) bytes ↔ Covers x y cx cy bytes := by
  simp [Covers, lands]

/-- A byte is not zero exactly when it has a bit of 1, counted from the left (R121). -/
theorem ne_zero_iff_exists_bit {b : Byte} : b ≠ 0 ↔ ∃ i < 8, b.getLsbD (7 - i) = true := by
  constructor
  · intro hne
    by_contra! hoff
    refine hne (BitVec.eq_of_getLsbD_eq fun k hk => ?_)
    have hbit := hoff (7 - k) (by omega)
    rw [show 7 - (7 - k) = k by omega] at hbit
    simpa using hbit
  · rintro ⟨i, -, hbit⟩ rfl
    simp at hbit

/-- Drawing a sprite a second time toggles back what the first time toggled (R125). -/
theorem draw_draw_fb (f : FrameBuffer) (x y : Nat) (bytes : List Byte) :
    (draw (draw f x y bytes).fb x y bytes).fb = f := by
  refine FrameBuffer.ext_pixel fun cx _ cy _ => ?_
  rw [draw_pixel, draw_pixel, Bool.xor_assoc, Bool.xor_self, Bool.xor_false]

/-- The blit of the sprite of `n` bytes at `I` at (Vx, Vy) (R124). -/
def State.spriteBlit (s : State) (x y : Reg) (n : Nat) : Blit :=
  draw s.fb (s.getV x).toNat (s.getV y).toNat (s.mem.readBytes (s.dataAddr 0) n)

/-- The sprite instruction takes over the framebuffer of its blit. -/
theorem State.drawSprite_fb (s : State) (x y : Reg) (n : Nat) : (s.drawSprite x y n).fb = (s.spriteBlit x y n).fb := rfl

/-- The sprite instruction leaves in VF whether its blit collided. -/
theorem State.getV_drawSprite_VF (s : State) (x y : Reg) (n : Nat) :
    (s.drawSprite x y n).getV VF = flagByte (s.spriteBlit x y n).collision :=
  State.getV_setFlag ..

end Sys2Proof.Machine

namespace Sys2Proof.Claims

open Sys2Proof.Machine

/-- The pixels that `DXYN` covers are those covered by the bytes at `I` at (Vx, Vy) (R124). -/
theorem spriteCovers_iff {s : State} {x y : Reg} {n cx cy : Nat} (hcx : cx < 64) (hcy : cy < 32) :
    SpriteCovers s x y n cx cy ↔
      Covers (s.getV x).toNat (s.getV y).toNat cx cy (s.mem.readBytes (s.dataAddr 0) n) := by
  have hlands (px py : Nat) : lands px py cx cy = true ↔ px % 64 = cx ∧ py % 32 = cy := by
    simp only [lands, Bool.and_eq_true, decide_eq_true_eq, Nat.mod_eq_of_lt hcx, Nat.mod_eq_of_lt hcy]
    exact and_congr eq_comm eq_comm
  simp only [SpriteCovers, Covers, hlands, Memory.getElem?_readBytes]
  constructor
  · rintro ⟨j, hj, i, hi, hcol, hrow, hbit⟩
    exact ⟨j, _, if_pos hj, i, hi, hbit, hcol, hrow⟩
  · rintro ⟨j, b, hb, i, hi, hbit, hcol, hrow⟩
    split at hb
    · next hj =>
      obtain rfl := Option.some.inj hb
      exact ⟨j, hj, i, hi, hcol, hrow, hbit⟩
    · cases hb

/-- The sprite of a `DXYN` has at most 15 rows, so no two of them fall on one row of the display (R121 (e)). -/
theorem length_sprite_le (s : State) (n : Nibble) : (s.mem.readBytes (s.dataAddr 0) n.toNat).length ≤ 32 := by
  have := n.isLt
  rw [Memory.length_readBytes]
  omega

/-- The blit of a `DXYN` changes exactly the pixels its sprite covers (R121). -/
theorem spriteBlit_pixel_ne {s : State} {x y : Reg} {n : Nibble} {cx cy : Nat} (hcx : cx < 64) (hcy : cy < 32) :
    (s.spriteBlit x y n.toNat).fb.pixel cx cy ≠ s.fb.pixel cx cy ↔ SpriteCovers s x y n.toNat cx cy := by
  rw [spriteCovers_iff hcx hcy, ← spriteToggles_eq_true (length_sprite_le s n), State.spriteBlit, draw_pixel]
  cases s.fb.pixel cx cy <;> simp

/-- The blit of a `DXYN` collides exactly when a pixel its sprite covers was on (R121). -/
theorem spriteBlit_collision {s : State} {x y : Reg} {n : Nibble} :
    (s.spriteBlit x y n.toNat).collision = true ↔
      ∃ cx < 64, ∃ cy < 32, s.fb.pixel cx cy = true ∧ SpriteCovers s x y n.toNat cx cy := by
  rw [State.spriteBlit, draw_collision _ _ _ (length_sprite_le s n)]
  constructor
  · rintro ⟨cx, cy, hon, hcovers⟩
    have hcx : cx % 64 < 64 := Nat.mod_lt cx (by decide)
    have hcy : cy % 32 < 32 := Nat.mod_lt cy (by decide)
    exact ⟨cx % 64, hcx, cy % 32, hcy, by rwa [FrameBuffer.pixel_mod],
      (spriteCovers_iff hcx hcy).mpr (covers_mod.mpr hcovers)⟩
  · rintro ⟨cx, hcx, cy, hcy, hon, hcovers⟩
    exact ⟨cx, cy, hon, (spriteCovers_iff hcx hcy).mp hcovers⟩

/-- The access of a `DXYN` lies in memory: it is empty, or its last byte is at most at 0xFFF (R38, R124). -/
theorem inMemory_of_rows {a n : Nat} (h : n = 0 ∨ a + n - 1 ≤ 0xFFF) : InMemory a n := by
  simp only [InMemory, Config.memSize]
  omega

/-- The cycle of a `DXYN` that draws keeps every part but registers, display, `pc` and timers. -/
theorem onlyChanges_drawSprite (s : State) (x y : Reg) (n : Nat) :
    OnlyChanges s (s.advance.drawSprite x y n).tick [.regs, .display, .pc, .timers] := by
  intro p hp
  cases p with
  | regs | display | pc | timers => simp at hp
  | memory => exact fun _ => rfl
  | stack => exact ⟨rfl, rfl⟩
  | _ => rfl

/-- Settles O47: with the rows in memory the instruction completes; its blit toggles the covered pixels, and VF is the
flag of its collision. -/
theorem drawTogglesSpritePixels : Obligations.DrawTogglesSpritePixels := by
  intro x y n s
  constructor
  · intro hrows
    have hflag : (s.advance.drawSprite x y n.toNat).tick.getV VF = flagByte (s.spriteBlit x y n.toNat).collision :=
      s.advance.getV_drawSprite_VF x y n.toNat
    refine ⟨(s.advance.drawSprite x y n.toNat).tick, exec_of_completes (i := .drw x y n) (inMemory_of_rows hrows),
      fun cx hcx cy hcy => spriteBlit_pixel_ne hcx hcy, ?bit, ?collision,
      fun r hr => s.advance.getV_drawSprite x y n.toNat hr, rfl, ⟨tickByte_toNat s.dt, tickByte_toNat s.st⟩,
      onlyChanges_drawSprite s x y n.toNat⟩
    case bit =>
      rw [hflag]
      cases (s.spriteBlit x y n.toNat).collision with
      | false => exact .inl rfl
      | true => exact .inr rfl
    case collision => rw [hflag, flagByte_eq_one, spriteBlit_collision]
  · intro hpos hlast
    exact exec_of_not_completes (i := .drw x y n) (not_inMemory.mpr ⟨hpos, hlast⟩)

/-- Settles O48: the second blit toggles back the first, and both read the same registers and bytes. -/
theorem drawTwiceRestores : Obligations.DrawTwiceRestores := by
  refine ⟨draw_draw_fb, ?_⟩
  intro x y n s t u hx hy hrows hfirst hsecond
  have hin : InMemory s.i.toNat n.toNat := inMemory_of_rows hrows
  have ht : t = (s.advance.drawSprite x y n.toNat).tick :=
    (Host.Outcome.next.inj ((exec_of_completes (i := .drw x y n) hin).symm.trans hfirst)).symm
  have hin' : InMemory t.i.toNat n.toNat := ht ▸ hin
  have hu : u = (t.advance.drawSprite x y n.toNat).tick :=
    (Host.Outcome.next.inj ((exec_of_completes (i := .drw x y n) hin').symm.trans hsecond)).symm
  have hcol : t.getV x = s.getV x := ht ▸ s.advance.getV_drawSprite x y n.toNat hx
  have hrow : t.getV y = s.getV y := ht ▸ s.advance.getV_drawSprite x y n.toNat hy
  have hbytes : t.mem.readBytes (t.dataAddr 0) n.toNat = s.mem.readBytes (s.dataAddr 0) n.toNat := ht ▸ rfl
  have hfb : t.fb = (s.spriteBlit x y n.toNat).fb := ht ▸ s.advance.drawSprite_fb x y n.toNat
  calc u.fb = (t.spriteBlit x y n.toNat).fb := hu ▸ t.advance.drawSprite_fb x y n.toNat
    _ = s.fb := by rw [State.spriteBlit, hcol, hrow, hbytes, hfb, State.spriteBlit, draw_draw_fb]

/-- Settles O49: no covered pixel was on before the first blit, and all of them are on before the second. -/
theorem secondDrawCollides : Obligations.SecondDrawCollides := by
  intro f x y bytes hlen hoff
  have hlen : bytes.length ≤ 32 := by omega
  have hcovered {cx cy : Nat} (hc : Covers x y cx cy bytes) : f.pixel cx cy = false := by
    obtain ⟨j, b, hj, i, hi, -, hl⟩ := hc
    simp only [lands, Bool.and_eq_true, decide_eq_true_eq] at hl
    rw [f.pixel_congr hl.1 hl.2]
    exact hoff j (List.getElem?_eq_some_iff.mp hj).1 i hi
  constructor
  · rw [Bool.eq_false_iff, ne_eq, draw_collision f x y hlen]
    rintro ⟨cx, cy, hon, hc⟩
    simp [hcovered hc] at hon
  · rw [draw_collision _ x y hlen]
    constructor
    · rintro ⟨cx, cy, -, j, b, hj, i, hi, hbit, -⟩
      exact ⟨b, List.mem_of_getElem? hj, ne_zero_iff_exists_bit.mpr ⟨i, hi, hbit⟩⟩
    · rintro ⟨b, hmem, hne⟩
      obtain ⟨i, hi, hbit⟩ := ne_zero_iff_exists_bit.mp hne
      obtain ⟨j, hj⟩ := List.mem_iff_getElem?.mp hmem
      have hc : Covers x y (x + i) (y + j) bytes := ⟨j, b, hj, i, hi, hbit, by simp [lands]⟩
      refine ⟨x + i, y + j, ?_, hc⟩
      rw [draw_pixel, hcovered hc, (spriteToggles_eq_true hlen).mpr hc]
      rfl

end Sys2Proof.Claims

/-! PROOFS. The key skips and the wait for a key (45_keys_timers.md R130 to R132). -/

namespace Sys2Proof.Claims

open Sys2Proof.Machine

/-- Settles O50: both skips look at one key flag, under opposite conditions, and fault when Vx names no key. -/
theorem keySkips : Obligations.KeySkips := by
  intro x s
  constructor
  · intro key hkey
    refine ⟨⟨_, keySkip_of_key hkey (.skp x) true, ?pressed⟩, ⟨_, keySkip_of_key hkey (.sknp x) false, ?released⟩⟩
    case pressed => simpa using jumpCycle_skipIf s (s.k[key] == true)
    case released =>
      have hskip := jumpCycle_skipIf s (s.k[key] == false)
      cases hflag : s.k[key] <;> simpa [hflag] using hskip
  · intro habove
    exact ⟨keySkip_of_out_of_range habove (.skp x) true, keySkip_of_out_of_range habove (.sknp x) false⟩

/-- Settles O51: the instruction always completes, and its effect follows what the scan finds. -/
theorem waitForKey : Obligations.WaitForKey := by
  intro x s
  constructor
  · intro key hscanned hon hlowest
    have hfound : s.k.lowest = some key := Keys.lowest_eq_some.mpr ⟨hscanned, hon, hlowest⟩
    obtain ⟨t, hexec, hkey, hframe⟩ := exec_of_effect_setV (i := .ldVxK x) (s := s) (x := x)
      (b := BitVec.ofNat 8 key.val) trivial (by simp [effect, hfound])
    refine ⟨t, hexec, ?_, hframe⟩
    rw [hkey, BitVec.toNat_ofNat]
    omega
  · intro hoff
    have hnone : s.k.lowest = none := Keys.lowest_eq_none.mpr hoff
    have hback : effect (.ldVxK x) s.advance = s.advance.setPc s.pc := by simp [effect, hnone]
    exact ⟨_, hback ▸ exec_of_completes (i := .ldVxK x) trivial, jumpCycle_setPc s s.pc⟩

end Sys2Proof.Claims

/-! PROOFS. The state after `RESET` and the host's reads (70_reset_and_hazards.md R170, R171; 60_exceptions.md R158 to
R160). -/

namespace Sys2Proof.Machine

/-- Memory in the font region reads as the font after reset (R24). -/
theorem getElem?_font {a : Nat} (h : a < Config.fontSize) : font[a]? = some (resetByte a) := by
  have hlen : a < font.length := h
  rw [resetByte, if_pos h, List.getD_eq_getElem?_getD, List.getElem?_eq_getElem hlen, Option.getD_some]

/-- Memory above the font region reads as zero after reset (R22; D9, log 7). -/
theorem resetByte_above_font {a : Nat} (h : Config.fontSize ≤ a) : resetByte a = 0 := if_neg (Nat.not_lt.mpr h)

end Sys2Proof.Machine

namespace Sys2Proof.Claims

open Sys2Proof.Machine

/-- The source's list holds whatever the draw counter, which is no state of the core. -/
theorem resetList_with_draws (d : Nat) : ResetList { State.reset with draws := d } :=
  ⟨rfl, rfl, rfl, rfl, rfl, FrameBuffer.pixel_blank, fun key => Vector.getElem_replicate key.isLt,
    fun _ => getElem?_font, fun _ hlow _ => resetByte_above_font (Nat.le_trans (by decide) hlow)⟩

/-- The spec's additions hold whatever the draw counter, which is no state of the core. -/
theorem resetAdditions_with_draws (d : Nat) : ResetAdditions { State.reset with draws := d } :=
  ⟨fun x => Vector.getElem_replicate x.isLt, fun slot => Vector.getElem_replicate slot.isLt,
    fun _ hlow _ => resetByte_above_font hlow, rfl⟩

/-- Settles O54: `RESET` is the initial state but for the draw counter, and nothing is listed in its memory. -/
theorem resetListHolds : Obligations.ResetListHolds :=
  ⟨resetList_with_draws 0, fun s => resetList_with_draws s.draws⟩

/-- Settles O55: `RESET` is the initial state but for the draw counter. -/
theorem resetAdditionsHold : Obligations.ResetAdditionsHold :=
  ⟨resetAdditions_with_draws 0, fun s => resetAdditions_with_draws s.draws⟩

/-- Settles O58: element `y * 64 + x` divides into the row and the column of its pixel. -/
theorem hostReads : Obligations.HostReads := by
  intro s
  refine ⟨fun x hx y hy => ?pixel, rfl, rfl, ?code⟩
  case pixel =>
    have hin : y * 64 + x < 2048 := by omega
    have hcol : (y * 64 + x) % 64 = x := by omega
    have hrow : (y * 64 + x) / 64 = y := by omega
    rw [Vector.getElem?_eq_getElem hin, State.readFb, Vector.getElem_ofFn, hcol, hrow]
  case code =>
    simp only [State.readFault]
    cases s.fault.cause <;> rfl

end Sys2Proof.Claims
